-- ==== Sys2Proof/Word.lean ====
section
/-! DEFINITION. The bit-vector widths the spec names (00_scope.md R13, R14; 30_encoding.md R91). All values are
unsigned; nothing in this core is sign-extended. -/

namespace Sys2Proof

/-- One byte of RAM, one data register, one timer (20_memory.md R60, 10_state.md R21, R30). -/
abbrev Byte := BitVec 8

/-- An instruction word, `I`, `PC`, a stack slot, an information word (30_encoding.md R90, 10_state.md R25, R26, R29). -/
abbrev Word := BitVec 16

/-- A field `op`, `x`, `y` or `n` of an instruction word (30_encoding.md R91). -/
abbrev Nibble := BitVec 4

/-- The field `nnn`, a 12-bit address (30_encoding.md R91). -/
abbrev Addr12 := BitVec 12

end Sys2Proof
end

