-- ==== Sys2Proof/Syntax.lean ====
section
/-! DEFINITION. The instructions: one constructor per row of spec/opcode_table.json (30_encoding.md R96), in the
table's order. Unknown words (R97) are no instruction: the decoder rejects them by name. -/

namespace Sys2Proof

/-- A register number: every value of a register field is a valid register (30_encoding.md R93, 10_state.md R21). -/
abbrev Reg := Fin 16

/-- The 34 instruction kinds of 30_encoding.md R96. `x`, `y` are register fields, `n`, `nn`, `nnn` unsigned
immediates (R91, R93). -/
inductive Instr where
  /-- row 1, `00E0`: CLS -/
  | cls
  /-- row 2, `00EE`: RET -/
  | ret
  /-- row 3, `1nnn`: JP nnn -/
  | jp (nnn : Addr12)
  /-- row 4, `2nnn`: CALL nnn -/
  | call (nnn : Addr12)
  /-- row 5, `3xkk`: SE Vx,nn -/
  | seImm (x : Reg) (nn : Byte)
  /-- row 6, `4xkk`: SNE Vx,nn -/
  | sneImm (x : Reg) (nn : Byte)
  /-- row 7, `5xy0`: SE Vx,Vy -/
  | seReg (x y : Reg)
  /-- row 8, `6xkk`: LD Vx,nn -/
  | ldImm (x : Reg) (nn : Byte)
  /-- row 9, `7xkk`: ADD Vx,nn -/
  | addImm (x : Reg) (nn : Byte)
  /-- row 10, `8xy0`: LD Vx,Vy -/
  | ldReg (x y : Reg)
  /-- row 11, `8xy1`: OR Vx,Vy -/
  | orReg (x y : Reg)
  /-- row 12, `8xy2`: AND Vx,Vy -/
  | andReg (x y : Reg)
  /-- row 13, `8xy3`: XOR Vx,Vy -/
  | xorReg (x y : Reg)
  /-- row 14, `8xy4`: ADD Vx,Vy -/
  | addReg (x y : Reg)
  /-- row 15, `8xy5`: SUB Vx,Vy -/
  | subReg (x y : Reg)
  /-- row 16, `8xy6`: SHR Vx with the optional second operand Vy -/
  | shr (x y : Reg)
  /-- row 17, `8xy7`: SUBN Vx,Vy -/
  | subnReg (x y : Reg)
  /-- row 18, `8xyE`: SHL Vx with the optional second operand Vy -/
  | shl (x y : Reg)
  /-- row 19, `9xy0`: SNE Vx,Vy -/
  | sneReg (x y : Reg)
  /-- row 20, `Annn`: LD I,nnn -/
  | ldI (nnn : Addr12)
  /-- row 21, `Bnnn`: JP V0,nnn; `x` is the top nibble of `nnn`, read under the quirk `JUMP_OFFSET_VX` (R92) -/
  | jpV0 (nnn : Addr12) (x : Reg)
  /-- row 22, `Cxkk`: RND Vx,nn -/
  | rnd (x : Reg) (nn : Byte)
  /-- row 23, `Dxyn`: DRW Vx,Vy,n -/
  | drw (x y : Reg) (n : Nibble)
  /-- row 24, `Ex9E`: SKP Vx -/
  | skp (x : Reg)
  /-- row 25, `ExA1`: SKNP Vx -/
  | sknp (x : Reg)
  /-- row 26, `Fx07`: LD Vx,DT -/
  | ldVxDt (x : Reg)
  /-- row 27, `Fx0A`: LD Vx,K -/
  | ldVxK (x : Reg)
  /-- row 28, `Fx15`: LD DT,Vx -/
  | ldDtVx (x : Reg)
  /-- row 29, `Fx18`: LD ST,Vx -/
  | ldStVx (x : Reg)
  /-- row 30, `Fx1E`: ADD I,Vx -/
  | addIVx (x : Reg)
  /-- row 31, `Fx29`: LD F,Vx -/
  | ldFVx (x : Reg)
  /-- row 32, `Fx33`: LD B,Vx -/
  | ldBVx (x : Reg)
  /-- row 33, `Fx55`: LD [I],Vx -/
  | ldMemVx (x : Reg)
  /-- row 34, `Fx65`: LD Vx,[I] -/
  | ldVxMem (x : Reg)
  deriving DecidableEq, Repr

end Sys2Proof
end

