-- ==== Sys2Proof/WellFormed.lean ====
section
/-! DEFINITION. Well-formed instructions. The operand types already bound every field (30_encoding.md R93: no
register field can be out of range); the one relation left is that `JP V0,nnn`'s two operands are the same bits. -/

namespace Sys2Proof

/-- The top nibble of a 12-bit address, as a register number (30_encoding.md R92: `x` = w[11:8]). -/
def Addr12.topReg (nnn : Addr12) : Reg := (nnn.extractLsb' 8 4).toFin

/-- The operands are those of some word: in `JP V0,nnn`, `x` is the top nibble of `nnn` (30_encoding.md R92). -/
def Instr.wellFormed : Instr → Bool
  | .cls | .ret | .jp _ | .call _ | .seImm _ _ | .sneImm _ _ | .seReg _ _ | .ldImm _ _ | .addImm _ _ | .ldReg _ _
  | .orReg _ _ | .andReg _ _ | .xorReg _ _ | .addReg _ _ | .subReg _ _ | .shr _ _ | .subnReg _ _ | .shl _ _
  | .sneReg _ _ | .ldI _ | .rnd _ _ | .drw _ _ _ | .skp _ | .sknp _ | .ldVxDt _ | .ldVxK _ | .ldDtVx _
  | .ldStVx _ | .addIVx _ | .ldFVx _ | .ldBVx _ | .ldMemVx _ | .ldVxMem _ => true
  | .jpV0 nnn x => x == Addr12.topReg nnn

end Sys2Proof
end

