-- ==== Sys2Proof/Decode.lean ====
section
/-! DEFINITION. The Instruction Decoder (30_encoding.md): the fields of a word (R91), the classifier, a pure total
function of the four nibbles (R94, R95), strict in every fixed bit (R98), the decoder of words and of bytes
(big-endian, 20_memory.md R67), and after it the encoder, written from the same table (R96). -/

namespace Sys2Proof

/-- Why a word is Unknown: the `op` group whose unassigned patterns it falls in (30_encoding.md R97), or too few
bytes to make a word. -/
inductive Reject where
  /-- op 0, neither 00E0 nor 00EE -/
  | unknownOp0
  /-- op 5 with n not 0 -/
  | unknownOp5
  /-- op 8 with n one of 8 to D, F -/
  | unknownOp8
  /-- op 9 with n not 0 -/
  | unknownOp9
  /-- op E, nn neither 9E nor A1 -/
  | unknownOpE
  /-- op F, nn none of the nine -/
  | unknownOpF
  /-- fewer than two bytes were given (30_encoding.md R90: every instruction is 2 bytes) -/
  | tooShort
  deriving DecidableEq, Repr

/-- `op` = w[15:12] (R91). -/
def fieldOp (w : Word) : Nibble := w.extractLsb' 12 4
/-- `x` = w[11:8] (R91). -/
def fieldX (w : Word) : Nibble := w.extractLsb' 8 4
/-- `y` = w[7:4] (R91). -/
def fieldY (w : Word) : Nibble := w.extractLsb' 4 4
/-- `n` = w[3:0] (R91). -/
def fieldN (w : Word) : Nibble := w.extractLsb' 0 4

/-- The register a field names. -/
def toReg (f : Nibble) : Reg := f.toFin

/-- `nn` = `y` ++ `n` (R91). -/
def fieldNN (y n : Nibble) : Byte := y ++ n
/-- `nnn` = `x` ++ `y` ++ `n` (R91). -/
def fieldNNN (x y n : Nibble) : Addr12 := x ++ (y ++ n)

/-- The classification of the tuple (op, x, y, n) (R94 to R98): one of the 34 kinds with its operands, or Unknown. -/
def classify (op x y n : Nibble) : Except Reject Instr :=
  let nn := fieldNN y n
  let nnn := fieldNNN x y n
  match op.toNat with
  | 0x0 =>
    if x = 0 ∧ nn = 0xE0 then .ok .cls
    else if x = 0 ∧ nn = 0xEE then .ok .ret
    else .error .unknownOp0
  | 0x1 => .ok (.jp nnn)
  | 0x2 => .ok (.call nnn)
  | 0x3 => .ok (.seImm (toReg x) nn)
  | 0x4 => .ok (.sneImm (toReg x) nn)
  | 0x5 => if n = 0 then .ok (.seReg (toReg x) (toReg y)) else .error .unknownOp5
  | 0x6 => .ok (.ldImm (toReg x) nn)
  | 0x7 => .ok (.addImm (toReg x) nn)
  | 0x8 =>
    match n.toNat with
    | 0x0 => .ok (.ldReg (toReg x) (toReg y))
    | 0x1 => .ok (.orReg (toReg x) (toReg y))
    | 0x2 => .ok (.andReg (toReg x) (toReg y))
    | 0x3 => .ok (.xorReg (toReg x) (toReg y))
    | 0x4 => .ok (.addReg (toReg x) (toReg y))
    | 0x5 => .ok (.subReg (toReg x) (toReg y))
    | 0x6 => .ok (.shr (toReg x) (toReg y))
    | 0x7 => .ok (.subnReg (toReg x) (toReg y))
    | 0xE => .ok (.shl (toReg x) (toReg y))
    | _ => .error .unknownOp8
  | 0x9 => if n = 0 then .ok (.sneReg (toReg x) (toReg y)) else .error .unknownOp9
  | 0xA => .ok (.ldI nnn)
  | 0xB => .ok (.jpV0 nnn (toReg x))
  | 0xC => .ok (.rnd (toReg x) nn)
  | 0xD => .ok (.drw (toReg x) (toReg y) n)
  | 0xE =>
    match nn.toNat with
    | 0x9E => .ok (.skp (toReg x))
    | 0xA1 => .ok (.sknp (toReg x))
    | _ => .error .unknownOpE
  | _ => -- 0xF, the only value left of four bits
    match nn.toNat with
    | 0x07 => .ok (.ldVxDt (toReg x))
    | 0x0A => .ok (.ldVxK (toReg x))
    | 0x15 => .ok (.ldDtVx (toReg x))
    | 0x18 => .ok (.ldStVx (toReg x))
    | 0x1E => .ok (.addIVx (toReg x))
    | 0x29 => .ok (.ldFVx (toReg x))
    | 0x33 => .ok (.ldBVx (toReg x))
    | 0x55 => .ok (.ldMemVx (toReg x))
    | 0x65 => .ok (.ldVxMem (toReg x))
    | _ => .error .unknownOpF

/-- Decode an instruction word: it reads the word and nothing else (R94, R104). -/
def decode (w : Word) : Except Reject Instr :=
  classify (fieldOp w) (fieldX w) (fieldY w) (fieldN w)

/-- The word made of two consecutive bytes, the first the high one (20_memory.md R67). -/
def wordOfBytes (hi lo : Byte) : Word := hi ++ lo

/-- The high byte of a word: the one at the lower address (20_memory.md R67). -/
def hiByte (w : Word) : Byte := w.extractLsb' 8 8

/-- The low byte of a word: the one at the higher address (20_memory.md R67). -/
def loByte (w : Word) : Byte := w.extractLsb' 0 8

/-- Decode the instruction at the head of a list of bytes and return the rest: always two bytes (R90, R101). -/
def decodeBytes : List Byte → Except Reject (Instr × List Byte)
  | hi :: lo :: rest =>
    match decode (wordOfBytes hi lo) with
    | .ok i => .ok (i, rest)
    | .error r => .error r
  | _ => .error .tooShort

/-- The instruction word that a table row's bits stand for: bit 0 of the row is bit 0 of the (only) word, and bits
above `nbits` are 0. -/
def tableWord (nbits w : Nat) : Word := BitVec.ofNat 16 (w % 2 ^ nbits)

/-- The instruction the decoder reads from the bytes of `tableWord`, laid out big-endian. -/
def decodeTableWord (nbits w : Nat) : Option Instr :=
  match decodeBytes [hiByte (tableWord nbits w), loByte (tableWord nbits w)] with
  | .ok (i, _) => some i
  | .error _ => none

/-- Put the four nibbles of a word together (R91). -/
def packNibbles (op x y n : Nibble) : Word := op ++ (x ++ (y ++ n))

/-- The field that names a register. -/
def ofReg (r : Reg) : Nibble := BitVec.ofFin r

/-- Format `A`: op, nnn (R92). -/
def encA (op : Nibble) (nnn : Addr12) : Word :=
  packNibbles op (nnn.extractLsb' 8 4) (nnn.extractLsb' 4 4) (nnn.extractLsb' 0 4)

/-- Formats `RI` and `R`: op, x, the low byte (an immediate or the function byte) (R92). -/
def encRI (op : Nibble) (x : Reg) (nn : Byte) : Word :=
  packNibbles op (ofReg x) (nn.extractLsb' 4 4) (nn.extractLsb' 0 4)

/-- Formats `RR` and `RRN`: op, x, y, the low nibble (the function nibble or a row count) (R92). -/
def encRR (op : Nibble) (x y : Reg) (n : Nibble) : Word :=
  packNibbles op (ofReg x) (ofReg y) n

/-- The word of a well-formed instruction, by the table of R96. -/
def encode : Instr → Word
  | .cls => 0x00E0
  | .ret => 0x00EE
  | .jp nnn => encA 0x1 nnn
  | .call nnn => encA 0x2 nnn
  | .seImm x nn => encRI 0x3 x nn
  | .sneImm x nn => encRI 0x4 x nn
  | .seReg x y => encRR 0x5 x y 0x0
  | .ldImm x nn => encRI 0x6 x nn
  | .addImm x nn => encRI 0x7 x nn
  | .ldReg x y => encRR 0x8 x y 0x0
  | .orReg x y => encRR 0x8 x y 0x1
  | .andReg x y => encRR 0x8 x y 0x2
  | .xorReg x y => encRR 0x8 x y 0x3
  | .addReg x y => encRR 0x8 x y 0x4
  | .subReg x y => encRR 0x8 x y 0x5
  | .shr x y => encRR 0x8 x y 0x6
  | .subnReg x y => encRR 0x8 x y 0x7
  | .shl x y => encRR 0x8 x y 0xE
  | .sneReg x y => encRR 0x9 x y 0x0
  | .ldI nnn => encA 0xA nnn
  | .jpV0 nnn _ => encA 0xB nnn
  | .rnd x nn => encRI 0xC x nn
  | .drw x y n => encRR 0xD x y n
  | .skp x => encRI 0xE x 0x9E
  | .sknp x => encRI 0xE x 0xA1
  | .ldVxDt x => encRI 0xF x 0x07
  | .ldVxK x => encRI 0xF x 0x0A
  | .ldDtVx x => encRI 0xF x 0x15
  | .ldStVx x => encRI 0xF x 0x18
  | .addIVx x => encRI 0xF x 0x1E
  | .ldFVx x => encRI 0xF x 0x29
  | .ldBVx x => encRI 0xF x 0x33
  | .ldMemVx x => encRI 0xF x 0x55
  | .ldVxMem x => encRI 0xF x 0x65

/-- The row of 30_encoding.md R96 of an instruction: its mask and match. -/
def tableRow : Instr → Word × Word
  | .cls => (0xFFFF, 0x00E0)
  | .ret => (0xFFFF, 0x00EE)
  | .jp _ => (0xF000, 0x1000)
  | .call _ => (0xF000, 0x2000)
  | .seImm _ _ => (0xF000, 0x3000)
  | .sneImm _ _ => (0xF000, 0x4000)
  | .seReg _ _ => (0xF00F, 0x5000)
  | .ldImm _ _ => (0xF000, 0x6000)
  | .addImm _ _ => (0xF000, 0x7000)
  | .ldReg _ _ => (0xF00F, 0x8000)
  | .orReg _ _ => (0xF00F, 0x8001)
  | .andReg _ _ => (0xF00F, 0x8002)
  | .xorReg _ _ => (0xF00F, 0x8003)
  | .addReg _ _ => (0xF00F, 0x8004)
  | .subReg _ _ => (0xF00F, 0x8005)
  | .shr _ _ => (0xF00F, 0x8006)
  | .subnReg _ _ => (0xF00F, 0x8007)
  | .shl _ _ => (0xF00F, 0x800E)
  | .sneReg _ _ => (0xF00F, 0x9000)
  | .ldI _ => (0xF000, 0xA000)
  | .jpV0 _ _ => (0xF000, 0xB000)
  | .rnd _ _ => (0xF000, 0xC000)
  | .drw _ _ _ => (0xF000, 0xD000)
  | .skp _ => (0xF0FF, 0xE09E)
  | .sknp _ => (0xF0FF, 0xE0A1)
  | .ldVxDt _ => (0xF0FF, 0xF007)
  | .ldVxK _ => (0xF0FF, 0xF00A)
  | .ldDtVx _ => (0xF0FF, 0xF015)
  | .ldStVx _ => (0xF0FF, 0xF018)
  | .addIVx _ => (0xF0FF, 0xF01E)
  | .ldFVx _ => (0xF0FF, 0xF029)
  | .ldBVx _ => (0xF0FF, 0xF033)
  | .ldMemVx _ => (0xF0FF, 0xF055)
  | .ldVxMem _ => (0xF0FF, 0xF065)

end Sys2Proof
end

