-- ==== Sys2Proof/Config.lean ====
section
/-! DEFINITION. The implementation parameters of 00_scope.md R6: the fixed values, the record of the parameters a
machine is built with, and the free values (no body: nothing can be proved of what they are). The DEFAULTS of the
parameters stand in Sys2Proof/Machine/Defaults.lean. -/

namespace Sys2Proof

/-- `RAM_SIZE`: 4096 bytes, addresses 0x000 to 0xFFF (R6; 20_memory.md R60). -/
def ramSize : Nat := 4096

/-- `PROG_BASE`: the load address and the reset value of `PC` (R6). -/
def progBase : Nat := 0x200

/-- `FONT_BASE`: the address of glyph 0 (R6). -/
def fontBase : Nat := 0

/-- `FONT_LEN`: 16 glyphs of 5 bytes (R6). -/
def fontLen : Nat := 80

/-- `TICK_HZ`: the timer tick rate (R6). -/
def tickHz : Nat := 60

/-- The longest ROM `Reset` is defined for: 4096 − 512 bytes (00_scope.md R8, 20_memory.md R64). -/
def maxRomLen : Nat := ramSize - progBase

/-- The parameters a machine is constructed with (00_scope.md R6, R9), with the constraints R6 makes part of their
type. Constant for the machine's life (R7). `CLK_HZ` is not here: see `Config.clkMultiple`. -/
structure Config where
  /-- `STACK_DEPTH`, the call stack's capacity in entries. -/
  stackDepth : Nat
  /-- `FB_W`, the framebuffer's width in pixels. -/
  fbW : Nat
  /-- `FB_H`, the framebuffer's height in pixels. -/
  fbH : Nat
  /-- `FONT`, the font bytes that reset copies to 0x000. -/
  font : List Byte
  /-- `SHIFT_SRC_Y`: shifts read Vy (true) or Vx (false). -/
  shiftSrcY : Bool
  /-- `LOGIC_RESET_VF`: OR, AND, XOR write VF to 0 (true) or leave it (false). -/
  logicResetVF : Bool
  /-- `JUMP_OFFSET_VX`: jump-with-offset adds Vx (true) or V0 (false). -/
  jumpOffsetVX : Bool
  /-- `ARM_CLEARS_LATCH`: arming `LD Vx,K` discards a key press latched earlier (true) or keeps it (false). -/
  armClearsLatch : Bool
  /-- `UNKNOWN_FATAL`: an Unknown word halts (true) or advances (false). -/
  unknownFatal : Bool
  /-- R6: 1 ≤ `STACK_DEPTH`. -/
  stackDepth_pos : 1 ≤ stackDepth
  /-- R6: `FB_W` ≥ 8. -/
  fbW_ge : 8 ≤ fbW
  /-- R6: `FB_H` ≥ 15. -/
  fbH_ge : 15 ≤ fbH
  /-- R6: `FONT` is `FONT_LEN` bytes. -/
  font_length : font.length = fontLen
  deriving DecidableEq, Repr

/-- FREE VALUE (assumption 3). `draw()` of `RND`: the byte of the k-th draw (41_alu.md R162, 93 part 1 row 5). -/
opaque Config.freeDraw : Nat → Byte

/-- FREE VALUE (assumption 4). `CLK_HZ` has no default (R6: OPEN); it is a positive multiple of 60, and this is the
multiple less one. -/
opaque Config.clkMultiple : Nat

/-- `CLK_HZ`: a positive multiple of 60, otherwise unconstrained (00_scope.md R6, 60_exceptions.md R273). -/
def clkHz : Nat := tickHz * (Config.clkMultiple + 1)

end Sys2Proof
end

