-- ==== Sys2Proof/Machine/Defaults.lean ====
section
/-! DEFINITION. The defaults of the parameters of 00_scope.md R6 and the reset contents of RAM. They stand apart from
the types so that each can be read, and mended, by itself. -/

namespace Sys2Proof.Machine

/-- The default `FONT`: the table of 20_memory.md R66 (UNVERIFIED: the spec marks it as general knowledge, G3;
assumption 12). -/
def defaultFont : List Byte :=
  [0xF0, 0x90, 0x90, 0x90, 0xF0] ++ [0x20, 0x60, 0x20, 0x20, 0x70] ++
  [0xF0, 0x10, 0xF0, 0x80, 0xF0] ++ [0xF0, 0x10, 0xF0, 0x10, 0xF0] ++
  [0x90, 0x90, 0xF0, 0x10, 0x10] ++ [0xF0, 0x80, 0xF0, 0x10, 0xF0] ++
  [0xF0, 0x80, 0xF0, 0x90, 0xF0] ++ [0xF0, 0x10, 0x20, 0x40, 0x40] ++
  [0xF0, 0x90, 0xF0, 0x90, 0xF0] ++ [0xF0, 0x90, 0xF0, 0x10, 0xF0] ++
  [0xF0, 0x90, 0xF0, 0x90, 0x90] ++ [0xE0, 0x90, 0xE0, 0x90, 0xE0] ++
  [0xF0, 0x80, 0x80, 0x80, 0xF0] ++ [0xE0, 0x90, 0x90, 0x90, 0xE0] ++
  [0xF0, 0x80, 0xF0, 0x80, 0xF0] ++ [0xF0, 0x80, 0xF0, 0x80, 0x80]

/-- Default `STACK_DEPTH` (R6, D4). -/
def defaultStackDepth : Nat := 16
/-- Default `FB_W` (R6, D3). -/
def defaultFbW : Nat := 64
/-- Default `FB_H` (R6, D3). -/
def defaultFbH : Nat := 32
/-- Default `SHIFT_SRC_Y` (R6, D9). -/
def defaultShiftSrcY : Bool := false
/-- Default `LOGIC_RESET_VF` (R6, D10). -/
def defaultLogicResetVF : Bool := false
/-- Default `JUMP_OFFSET_VX` (R6, D11). -/
def defaultJumpOffsetVX : Bool := false
/-- Default `ARM_CLEARS_LATCH` (R6, D19). -/
def defaultArmClearsLatch : Bool := false
/-- Default `UNKNOWN_FATAL` (R6, D13). -/
def defaultUnknownFatal : Bool := true

/-- Every parameter at its default (R6). -/
def defaultConfig : Config where
  stackDepth := defaultStackDepth
  fbW := defaultFbW
  fbH := defaultFbH
  font := defaultFont
  shiftSrcY := defaultShiftSrcY
  logicResetVF := defaultLogicResetVF
  jumpOffsetVX := defaultJumpOffsetVX
  armClearsLatch := defaultArmClearsLatch
  unknownFatal := defaultUnknownFatal
  stackDepth_pos := by decide
  fbW_ge := by decide
  fbH_ge := by decide
  font_length := rfl

/-- What a byte of RAM outside the font reads as when nothing has written it: the spec leaves it unspecified
(20_memory.md R63, D24). DESIGN CHOICE, unsafe (assumption 2). -/
def unwrittenByte : Byte := 0

/-- What an address that memory does not list reads as: the reset contents (20_memory.md R63), the default font at
0x000 to 0x04F and `unwrittenByte` elsewhere. -/
def initByte (a : Nat) : Byte :=
  if a < fontBase then unwrittenByte else defaultFont.getD (a - fontBase) unwrittenByte

end Sys2Proof.Machine
end

