-- ==== Sys2Proof/Machine/State.lean ====
section
/-! DEFINITION. The machine's state as plain data: every element of 10_state.md R20, the parameters it was built with
(00_scope.md R6), the step's outputs (R12), and the model's own two fields (the draw counter and the agenda); and the
state after reset (70_reset_and_hazards.md R291). -/

namespace Sys2Proof.Machine

/-- RAM as written cells, in the canonical form `Memory.wf` (Machine/Ops.lean); an address not listed reads `initByte`. -/
abbrev Memory := List Host.Cell

/-- The framebuffer: `FB_H` rows, top first, of `FB_W` cells, left first (10_state.md R33, R34). -/
abbrev Framebuffer := List (List Bool)

/-- A logical key, 0 to 15 (10_state.md R37). -/
abbrev Key := Fin 16

/-- The engine's state machine (10_state.md R39). -/
inductive Mode where
  | running
  | awaitingKey
  deriving DecidableEq, Repr

/-- The control-flow effect a step reports (40_control_flow.md R122). -/
inductive Effect where
  | advance
  | jump (target : Word)
  | call (target : Word)
  | ret
  | skip
  | wait
  deriving DecidableEq, Repr

/-- The error kinds the core raises (60_exceptions.md R250, codes 1 to 4). ResourceLoad, code 5, has no
representation in the core (R255). -/
inductive ErrorKind where
  | outOfBoundsAccess
  | stackUnderflow
  | stackOverflow
  | unknownInstruction
  deriving DecidableEq, Repr

/-- The atomic actions of the three agents (00_scope.md R10), and the clock edge behind `Tick` (60_exceptions.md
R273). -/
inductive Action where
  /-- Engine: one `Step` (40_control_flow.md R124) -/
  | step
  /-- Timer: one rising edge of `clk`, which performs a `Tick` when the divider wraps (60_exceptions.md R273) -/
  | clk
  /-- Timer: one `Tick` as a free event (60_exceptions.md R271, R272) -/
  | tick
  /-- Host: `KeyPress(k)` (60_exceptions.md R280) -/
  | keyPress (k : Key)
  /-- Host: `KeyRelease(k)` (60_exceptions.md R281) -/
  | keyRelease (k : Key)
  /-- Host: `FbAck` (60_exceptions.md R283) -/
  | fbAck
  /-- Host: `Reset(ROM)` (70_reset_and_hazards.md R290). `launch` gives the bytes the spec leaves unspecified (R291,
  D24: any bytes, part of the launch state). -/
  | reset (rom : List Byte) (launch : List Host.Cell)
  deriving DecidableEq, Repr

/-- Why a step has no next state at all. The spec's own errors are NOT here: they halt the core, which is a next
state with `halt` set (60_exceptions.md R256). -/
inductive Fault where
  /-- Raised by `complete` for Call and Return (`CALL`, `RET`) when the stack has no slot of the number `SP` says: only in a state
  that breaks the stack invariant of 10_state.md R29 (`SP` at most `STACK_DEPTH`, `STACK_DEPTH` slots), which no run
  reaches. Safe: the model stops where the spec has no such state. -/
  | noStackSlot
  deriving DecidableEq, Repr

/-- Why a step has no meaning. -/
inductive Refusal where
  /-- An instruction of the table that has no meaning yet: raised by an arm of `exec` alone. Safe. -/
  | notModelled (mnemonic : String)
  /-- Raised by the host action `Reset` with a ROM longer than 3584 bytes, for which the spec defines no reset
  (20_memory.md R64, D32; 93 part 1 row 24: refuse). Safe. -/
  | romTooLong
  deriving DecidableEq, Repr

/-- The state of the machine (10_state.md R20). -/
structure State where
  /-- The parameters of 00_scope.md R6; no action changes them (R7). -/
  cfg : Config
  /-- `V[0..15]`, the data registers; `V[15]` is VF (R21, R23). -/
  v : Vector Byte 16
  /-- `I`, the index register (R25). -/
  i : Word
  /-- `PC` (R26). -/
  pc : Word
  /-- `STACK[0..STACK_DEPTH-1]`, the slots, slot 0 first (R29). -/
  stack : List Word
  /-- `SP`, the number of return addresses held (R29). -/
  sp : Nat
  /-- `DT`, the delay timer (R30). -/
  dt : Byte
  /-- `ST`, the sound timer (R30). -/
  st : Byte
  /-- `DIV`, the tick divider (R31). -/
  div : Nat
  /-- `RAM[0..4095]` (R32). -/
  ram : Memory
  /-- `FB[row][col]` (R33). -/
  fb : Framebuffer
  /-- `DIRTY` (R36). -/
  dirty : Bool
  /-- `KEY[0..15]` (R37). -/
  key : Vector Bool 16
  /-- `LATCH` (R38). -/
  latch : Option Key
  /-- `MODE` (R39). -/
  mode : Mode
  /-- `HALT`: the error kind and the information word (R40). -/
  halt : Option (ErrorKind × Word)
  /-- Output `effect`: what the last step performed reported; none after reset or an error (00_scope.md R12). -/
  effect : Option Effect
  /-- Output `unknown_event`: the word, when the last step performed met an Unknown one (00_scope.md R12). -/
  unknownEvent : Option Word
  /-- MODEL'S OWN: how many draws of `RND` came before (assumption 3). -/
  draws : Nat
  /-- MODEL'S OWN: the actions that come next, in order; when it is empty the Engine steps (assumption 5). -/
  agenda : List Action
  deriving DecidableEq, Repr

/-- The state of 70_reset_and_hazards.md R291 for a machine of parameters `cfg` whose RAM was filled with `ram`. -/
def State.fresh (cfg : Config) (ram : Memory) : State where
  cfg := cfg
  v := Vector.replicate 16 0
  i := 0
  pc := BitVec.ofNat 16 progBase
  stack := List.replicate cfg.stackDepth 0
  sp := 0
  dt := 0
  st := 0
  div := 0
  ram := ram
  fb := List.replicate cfg.fbH (List.replicate cfg.fbW false)
  dirty := false
  key := Vector.replicate 16 false
  latch := none
  mode := .running
  halt := none
  effect := none
  unknownEvent := none
  draws := 0
  agenda := []

/-- The machine right after reset, with the default parameters (00_scope.md R6) and an empty ROM (20_memory.md R64);
RAM lists nothing, so it reads as the reset contents `initByte`. -/
def State.reset : State := State.fresh defaultConfig []

end Sys2Proof.Machine
end

