-- ==== Sys2Proof/Machine/Ops.lean ====
section
/-! DEFINITION. The named operations every meaning is built from: RAM (20_memory.md), the data registers (10_state.md
R21), the framebuffer cells (42_display.md), the control-flow effects (40_control_flow.md R122), raising an error
(60_exceptions.md R256), the reaction to an Unknown word (30_encoding.md R99), and the fetch (40_control_flow.md R120). -/

namespace Sys2Proof.Machine

/-! ### RAM -/

/-- `MemRead(addr, 1)`: the byte last written at an address, or the reset contents (20_memory.md R72, R74). -/
def Memory.read : Memory → Nat → Byte
  | [], a => initByte a
  | (b, u) :: m, a => if b = a then u else Memory.read m a

/-- `MemWrite(addr, 1, v)`, in the canonical form: a cell that would say what an unlisted address reads as is not
listed (20_memory.md R72). -/
def Memory.write : Memory → Nat → Byte → Memory
  | [], a, x => if x = initByte a then [] else [(a, x)]
  | (b, u) :: m, a, x =>
    if a < b then (if x = initByte a then (b, u) :: m else (a, x) :: (b, u) :: m)
    else if a = b then (if x = initByte a then m else (a, x) :: m)
    else (b, u) :: Memory.write m a x

/-- The canonical form: addresses strictly rising and inside RAM (20_memory.md R60), and no cell that says what an
unlisted address reads as. -/
abbrev Memory.wf (m : Memory) : Prop :=
  m.Pairwise (fun p q => p.1 < q.1) ∧ ∀ c ∈ m, c.1 < ramSize ∧ c.2 ≠ initByte c.1

/-- One-byte writes at ascending addresses from `a`, in the order of the list (20_memory.md R68). -/
def Memory.writeBytes : Memory → Nat → List Byte → Memory
  | m, _, [] => m
  | m, a, x :: xs => Memory.writeBytes (Memory.write m a x) (a + 1) xs

/-- RAM holding the given cells, written one after the other; a cell outside RAM is no cell of it. -/
def Memory.ofCells (cells : List Host.Cell) : Memory :=
  (cells.filter fun c => c.1 < ramSize).foldl (fun m c => Memory.write m c.1 c.2) []

/-- The bounds check of an access to `count` consecutive bytes from `base`, over the naturals: none when every
address is at most 0xFFF, otherwise the lowest address that is not (20_memory.md R70, R71; 60_exceptions.md R251). -/
def rangeError (base count : Nat) : Option Word :=
  if 0 < count ∧ ramSize < base + count then some (BitVec.ofNat 16 (max base ramSize)) else none

/-! ### Data registers -/

/-- Read `V[x]` (10_state.md R21). -/
def State.getV (s : State) (x : Reg) : Byte := s.v.get x

/-- Write `V[x]` (10_state.md R21). -/
def State.setV (s : State) (x : Reg) (b : Byte) : State := { s with v := s.v.set x b }

/-- The register number of VF (10_state.md R23). -/
def vf : Reg := 15

/-! ### Framebuffer cells -/

/-- Read `FB[row][col]` (00_scope.md R14). DESIGN CHOICE (assumption 26): a cell the framebuffer does not have, of which
the spec says nothing, reads 0; no instruction and no output reads one, by R182 and R283. -/
def Framebuffer.cell (fb : Framebuffer) (row col : Nat) : Bool := (fb.getD row []).getD col false

/-- `FB[row][col] <- FB[row][col] ^ 1` (42_display.md R183). -/
def Framebuffer.flip (fb : Framebuffer) (row col : Nat) : Framebuffer :=
  fb.modify row fun cells => cells.modify col not

/-- Every cell 0 (42_display.md R180). -/
def Framebuffer.clear (c : Config) : Framebuffer := List.replicate c.fbH (List.replicate c.fbW false)

/-! ### How a step ends -/

/-- The last act of a step that raised no error: `PC` takes its new value and the effect is reported (40_control_flow.md
R122, R124). -/
def State.finish (s : State) (pc : Word) (e : Effect) : State :=
  { s with pc := pc, effect := some e, unknownEvent := none }

/-- Report an effect and update `PC`, and for Call and Return the stack, as 40_control_flow.md R122 says. -/
def complete (e : Effect) (s : State) : Host.Outcome State Fault Refusal :=
  match e with
  | .advance => .next (s.finish (s.pc + 2) .advance)
  | .jump a => .next (s.finish a (.jump a))
  | .call a =>
    if s.sp < s.stack.length then
      .next (State.finish { s with stack := s.stack.set s.sp (s.pc + 2), sp := s.sp + 1 } a (.call a))
    else .fault .noStackSlot
  | .ret =>
    match s.stack[s.sp - 1]? with
    | some a => .next (State.finish { s with sp := s.sp - 1 } a .ret)
    | none => .fault .noStackSlot
  | .skip => .next (s.finish (s.pc + 4) .skip)
  | .wait => .next (s.finish s.pc .wait)

/-- A state halted by an error: `HALT` is set, no effect is reported, everything else stays (60_exceptions.md R256). -/
def State.halted (s : State) (k : ErrorKind) (info : Word) : State :=
  { s with halt := some (k, info), effect := none, unknownEvent := none }

/-- `raise E(info)` (60_exceptions.md R256): the error is taken; `s` must be the state before the instruction wrote
anything. -/
def raise (k : ErrorKind) (info : Word) (s : State) : Host.Outcome State Fault Refusal :=
  .next (s.halted k info)

/-- The code of an error kind (60_exceptions.md R250, D34). -/
def ErrorKind.code : ErrorKind → Nat
  | .outOfBoundsAccess => 1
  | .stackUnderflow => 2
  | .stackOverflow => 3
  | .unknownInstruction => 4

/-- What an Unknown word does: the event is raised; then the error when `UNKNOWN_FATAL`, otherwise Advance
(30_encoding.md R99). -/
def unknownWord (w : Word) (s : State) : Host.Outcome State Fault Refusal :=
  if s.cfg.unknownFatal then .next { s.halted .unknownInstruction w with unknownEvent := some w }
  else .next { s.finish (s.pc + 2) .advance with unknownEvent := some w }

/-! ### Fetch -/

/-- The word at an address, high byte first (20_memory.md R67). -/
def State.wordAt (s : State) (a : Nat) : Word := wordOfBytes (s.ram.read a) (s.ram.read (a + 1))

/-- Fetch the word at `PC`, or the information word of the error (40_control_flow.md R120). -/
def State.fetch (s : State) : Except Word Word :=
  match rangeError s.pc.toNat 2 with
  | some info => .error info
  | none => .ok (s.wordAt s.pc.toNat)

end Sys2Proof.Machine
end

