-- ==== Sys2Proof/Machine/Agents.lean ====
section
/-! DEFINITION. The actions of the Timer and of the Host (60_exceptions.md R271, R273, R280, R281, R283;
70_reset_and_hazards.md R290 to R292) and the outputs of 00_scope.md R12. -/

namespace Sys2Proof.Machine

/-! ### The timer countdown engine -/

/-- One countdown: clamps at zero (60_exceptions.md R271). -/
def countDown (t : Byte) : Byte := if t = 0 then 0 else t - 1

/-- `Tick` (60_exceptions.md R271): nothing while halted. -/
def State.tick (s : State) : State :=
  if s.halt.isSome then s else { s with dt := countDown s.dt, st := countDown s.st }

/-- One rising edge of `clk` with a divider of `period` cycles (60_exceptions.md R273). -/
def State.clkEdgeAt (period : Nat) (s : State) : State :=
  if s.div = period - 1 then State.tick { s with div := 0 } else { s with div := s.div + 1 }

/-- One rising edge of `clk`; the period is `CLK_HZ / 60` (60_exceptions.md R273). -/
def State.clkEdge (s : State) : State := s.clkEdgeAt (clkHz / tickHz)

/-! ### The host's actions -/

/-- `KeyPress(k)` (60_exceptions.md R280). -/
def State.keyPress (s : State) (k : Key) : State := { s with key := s.key.set k true, latch := some k }

/-- `KeyRelease(k)` (60_exceptions.md R281). -/
def State.keyRelease (s : State) (k : Key) : State := { s with key := s.key.set k false }

/-- `FbAck` (60_exceptions.md R283). -/
def State.fbAck (s : State) : State := { s with dirty := false }

/-- RAM after reset: the font first, then the ROM, over the launch contents (70_reset_and_hazards.md R291, R292). -/
def bootRam (c : Config) (rom : List Byte) (launch : List Host.Cell) : Memory :=
  ((Memory.ofCells launch).writeBytes fontBase c.font).writeBytes progBase rom

/-- `Reset(ROM)` (70_reset_and_hazards.md R290, R291): the whole state anew, whatever it was; the parameters stay
(00_scope.md R7), and the model's own two fields go on. Refused for a ROM the spec defines no reset for (20_memory.md
R64). -/
def resetTo (rom : List Byte) (launch : List Host.Cell) (s : State) : Host.Outcome State Fault Refusal :=
  if rom.length ≤ maxRomLen then
    .next { State.fresh s.cfg (bootRam s.cfg rom launch) with draws := s.draws, agenda := s.agenda }
  else .refused .romTooLong

/-! ### Outputs -/

/-- `fb_read(col,row)` for a column below `FB_W` and a row below `FB_H` (60_exceptions.md R283). The rule gives no value
outside; DESIGN CHOICE (assumption 26): there is no such read, the types leave it out. -/
def State.fbRead (s : State) (col : Fin s.cfg.fbW) (row : Fin s.cfg.fbH) : Bool := s.fb.cell row col

/-- `fb_dirty` (60_exceptions.md R283). -/
def State.fbDirty (s : State) : Bool := s.dirty

/-- `sound_on`: 1 exactly when ST > 0 (60_exceptions.md R275). -/
def State.soundOn (s : State) : Bool := 0 < s.st.toNat

/-- `st_value` (60_exceptions.md R275). -/
def State.stValue (s : State) : Byte := s.st

/-- `error`: None, or the error kind with its information word (00_scope.md R12, 60_exceptions.md R256). -/
def State.errorOut (s : State) : Option (ErrorKind × Word) := s.halt

end Sys2Proof.Machine
end

