-- ==== Sys2Proof/Machine/Operands.lean ====
section
/-! DEFINITION. The operand forms: zero-extended addresses (30_encoding.md R93), the two quirk-dependent sources
(41_alu.md R160, 40_control_flow.md R130), the font address (44 R227), the BCD digits (44 R231), the bulk copies
(44 R233, R235), the key index (43 R200), and the sprite's pixels (42 R181, R182). -/

namespace Sys2Proof.Machine

/-- `zext_16(nnn)` (30_encoding.md R93). -/
def imm12 (nnn : Addr12) : Word := nnn.setWidth 16

/-- `zext_16(v)` of a byte (30_encoding.md R93). -/
def zext16 (b : Byte) : Word := b.setWidth 16

/-- The source of a shift: V[y] when `SHIFT_SRC_Y`, otherwise V[x] (41_alu.md R160). -/
def shiftSource (s : State) (x y : Reg) : Byte := if s.cfg.shiftSrcY then s.getV y else s.getV x

/-- The target of jump-with-offset: `nnn` plus V[x] when `JUMP_OFFSET_VX`, otherwise plus V0; not reduced to 12 bits
(40_control_flow.md R130). -/
def jumpOffsetTarget (s : State) (nnn : Addr12) (x : Reg) : Word :=
  imm12 nnn + zext16 (s.getV (if s.cfg.jumpOffsetVX then x else 0))

/-- The font sprite address `5 * V[x]`, the whole byte unmasked (44 R227). -/
def fontAddress (b : Byte) : Word := 5 * zext16 b

/-- Hundreds, tens, units (44 R231). -/
def bcdDigits (b : Byte) : List Byte :=
  [BitVec.ofNat 8 (b.toNat / 100), BitVec.ofNat 8 (b.toNat / 10 % 10), BitVec.ofNat 8 (b.toNat % 10)]

/-- V0 to Vx, V0 first (44 R233). -/
def dumpBytes (s : State) (x : Reg) : List Byte := s.v.toList.take (x.val + 1)

/-- The registers after V[j] <- RAM[base + j] for j below `count`, in index order (44 R235). -/
def loadRegs (ram : Memory) (base : Nat) (v : Vector Byte 16) : Nat → Vector Byte 16
  | 0 => v
  | j + 1 => (loadRegs ram base v j).setIfInBounds j (ram.read (base + j))

/-- The key a register's value names; none above 15 (43 R200). -/
def keyIndex (b : Byte) : Option Key := if h : b.toNat < 16 then some ⟨b.toNat, h⟩ else none

/-- The framebuffer cells targeted by the set bits of sprite row `k`, column 0 (bit 7) first: (row, column), each wrapped
on its own (42 R181, R182). -/
def spriteRowCells (c : Config) (px py k : Nat) (b : Byte) : List (Nat × Nat) :=
  ((List.range 8).filter fun col => b.getLsbD (7 - col)).map fun col => ((py + k) % c.fbH, (px + col) % c.fbW)

/-- The cells targeted by the `n` sprite bytes at `base`, row by row (42 R181 to R183). -/
def spriteCells (c : Config) (ram : Memory) (base px py n : Nat) : List (Nat × Nat) :=
  (List.range n).flatMap fun k => spriteRowCells c px py k (ram.read (base + k))

end Sys2Proof.Machine
end

