-- ==== Sys2Proof/Machine/Flags.lean ====
section
/-! DEFINITION. The flag computations, all on VF (10_state.md R23), and the flag write, which comes after the result's
(R24). -/

namespace Sys2Proof.Machine

/-- A flag value is the whole byte 0x00 or 0x01 (10_state.md R23, D33). -/
def flagByte (b : Bool) : Byte := if b then 1 else 0

/-- `VF <- flag` (10_state.md R23, R24). -/
def State.setVF (s : State) (b : Bool) : State := s.setV vf (flagByte b)

/-- Carry of an 8-bit add: a + b ≥ 256 (41_alu.md R157). -/
def addCarry (a b : Byte) : Bool := 256 ≤ a.toNat + b.toNat

/-- NOT-borrow of minuend a less subtrahend b: a ≥ b (41_alu.md R158, R163). -/
def subNoBorrow (a b : Byte) : Bool := b.toNat ≤ a.toNat

/-- The bit a right shift drops, bit 0 of the source (41_alu.md R160). -/
def shrFlag (b : Byte) : Bool := b.getLsbD 0

/-- The bit a left shift drops, bit 7 of the source (41_alu.md R161). -/
def shlFlag (b : Byte) : Bool := b.getLsbD 7

/-- After OR, AND, XOR: VF becomes 0x00 when `LOGIC_RESET_VF`, otherwise stays (41_alu.md R153). -/
def State.logicFlag (s : State) : State := if s.cfg.logicResetVF then s.setVF false else s

/-- One pixel of a draw: a lit cell is a hit, and the cell flips (42 R183). -/
def drawPixel (p : Framebuffer × Bool) (rc : Nat × Nat) : Framebuffer × Bool :=
  (p.1.flip rc.1 rc.2, p.2 || p.1.cell rc.1 rc.2)

/-- The framebuffer after XORing the targeted cells in order, and whether any XOR took a cell from 1 to 0 (42 R183). -/
def drawCells (fb : Framebuffer) (cells : List (Nat × Nat)) : Framebuffer × Bool :=
  cells.foldl drawPixel (fb, false)

end Sys2Proof.Machine
end

