-- ==== Sys2Proof/Machine/Alu.lean ====
section
/-! DEFINITION. 41_alu.md: register loads, logic, arithmetic, shifts, random. Sources are read first, then V[x] is
written, then VF (R152). -/

namespace Sys2Proof.Machine

/-- LD Vx,nn (R150). -/
def execLdImm (x : Reg) (nn : Byte) (s : State) : Host.Outcome State Fault Refusal :=
  complete .advance (s.setV x nn)

/-- LD Vx,Vy (R151). -/
def execLdReg (x y : Reg) (s : State) : Host.Outcome State Fault Refusal :=
  complete .advance (s.setV x (s.getV y))

/-- OR Vx,Vy (R153). -/
def execOrReg (x y : Reg) (s : State) : Host.Outcome State Fault Refusal :=
  complete .advance (s.setV x (s.getV x ||| s.getV y)).logicFlag

/-- AND Vx,Vy (R154). -/
def execAndReg (x y : Reg) (s : State) : Host.Outcome State Fault Refusal :=
  complete .advance (s.setV x (s.getV x &&& s.getV y)).logicFlag

/-- XOR Vx,Vy (R155). -/
def execXorReg (x y : Reg) (s : State) : Host.Outcome State Fault Refusal :=
  complete .advance (s.setV x (s.getV x ^^^ s.getV y)).logicFlag

/-- ADD Vx,nn (R156): no flag. -/
def execAddImm (x : Reg) (nn : Byte) (s : State) : Host.Outcome State Fault Refusal :=
  complete .advance (s.setV x (s.getV x + nn))

/-- ADD Vx,Vy (R157). -/
def execAddReg (x y : Reg) (s : State) : Host.Outcome State Fault Refusal :=
  complete .advance ((s.setV x (s.getV x + s.getV y)).setVF (addCarry (s.getV x) (s.getV y)))

/-- SUB Vx,Vy: x minus y (R158). -/
def execSubReg (x y : Reg) (s : State) : Host.Outcome State Fault Refusal :=
  complete .advance ((s.setV x (s.getV x - s.getV y)).setVF (subNoBorrow (s.getV x) (s.getV y)))

/-- SUBN Vx,Vy: y minus x (R159). -/
def execSubnReg (x y : Reg) (s : State) : Host.Outcome State Fault Refusal :=
  complete .advance ((s.setV x (s.getV y - s.getV x)).setVF (subNoBorrow (s.getV y) (s.getV x)))

/-- SHR Vx with the optional Vy (R160). -/
def execShr (x y : Reg) (s : State) : Host.Outcome State Fault Refusal :=
  complete .advance ((s.setV x (shiftSource s x y >>> 1)).setVF (shrFlag (shiftSource s x y)))

/-- SHL Vx with the optional Vy (R161). -/
def execShl (x y : Reg) (s : State) : Host.Outcome State Fault Refusal :=
  complete .advance ((s.setV x (shiftSource s x y <<< 1)).setVF (shlFlag (shiftSource s x y)))

/-- RND Vx,nn (R162): the draw is a free value, one for each step that draws (assumption 3). -/
def execRnd (x : Reg) (nn : Byte) (s : State) : Host.Outcome State Fault Refusal :=
  complete .advance (State.setV { s with draws := s.draws + 1 } x (Config.freeDraw s.draws &&& nn))

end Sys2Proof.Machine
end

