-- ==== Sys2Proof/Machine/Display.lean ====
section
/-! DEFINITION. 42_display.md: clear screen and the sprite-XOR collision unit. -/

namespace Sys2Proof.Machine

/-- CLS (R180). -/
def execCls (s : State) : Host.Outcome State Fault Refusal :=
  complete .advance { s with fb := Framebuffer.clear s.cfg, dirty := true }

/-- The framebuffer and the hit bit after drawing the `n` sprite bytes at `I` at (V[x], V[y]) (R183). -/
def drawSprite (s : State) (x y : Reg) (n : Nibble) : Framebuffer × Bool :=
  drawCells s.fb (spriteCells s.cfg s.ram s.i.toNat (s.getV x).toNat (s.getV y).toNat n.toNat)

/-- DRW Vx,Vy,n (R183). -/
def execDrw (x y : Reg) (n : Nibble) (s : State) : Host.Outcome State Fault Refusal :=
  match rangeError s.i.toNat n.toNat with
  | some info => raise .outOfBoundsAccess info s
  | none =>
    complete .advance (State.setVF { s with fb := (drawSprite s x y n).1, dirty := true } (drawSprite s x y n).2)

end Sys2Proof.Machine
end

