-- ==== Sys2Proof/Machine/Control.lean ====
section
/-! DEFINITION. 40_control_flow.md: return, jumps, call, and the four compare-and-skip instructions. -/

namespace Sys2Proof.Machine

/-- Skip when the condition holds, otherwise Advance (40_control_flow.md R131 to R134). -/
def skipIf (b : Bool) (s : State) : Host.Outcome State Fault Refusal :=
  complete (if b then .skip else .advance) s

/-- RET (R125). -/
def execRet (s : State) : Host.Outcome State Fault Refusal :=
  if s.sp = 0 then raise .stackUnderflow s.pc s else complete .ret s

/-- JP nnn (R126). -/
def execJp (nnn : Addr12) (s : State) : Host.Outcome State Fault Refusal :=
  complete (.jump (imm12 nnn)) s

/-- CALL nnn (R127). -/
def execCall (nnn : Addr12) (s : State) : Host.Outcome State Fault Refusal :=
  if s.sp = s.cfg.stackDepth then raise .stackOverflow s.pc s else complete (.call (imm12 nnn)) s

/-- JP V0,nnn (R130). -/
def execJpV0 (nnn : Addr12) (x : Reg) (s : State) : Host.Outcome State Fault Refusal :=
  complete (.jump (jumpOffsetTarget s nnn x)) s

/-- SE Vx,nn (R131). -/
def execSeImm (x : Reg) (nn : Byte) (s : State) : Host.Outcome State Fault Refusal :=
  skipIf (s.getV x == nn) s

/-- SNE Vx,nn (R132). -/
def execSneImm (x : Reg) (nn : Byte) (s : State) : Host.Outcome State Fault Refusal :=
  skipIf (s.getV x != nn) s

/-- SE Vx,Vy (R133). -/
def execSeReg (x y : Reg) (s : State) : Host.Outcome State Fault Refusal :=
  skipIf (s.getV x == s.getV y) s

/-- SNE Vx,Vy (R134). -/
def execSneReg (x y : Reg) (s : State) : Host.Outcome State Fault Refusal :=
  skipIf (s.getV x != s.getV y) s

end Sys2Proof.Machine
end

