-- ==== Sys2Proof/Machine/Keypad.lean ====
section
/-! DEFINITION. 43_keypad.md: the two skips on a key's level and the blocking key-wait. -/

namespace Sys2Proof.Machine

/-- SKP Vx (R200). -/
def execSkp (x : Reg) (s : State) : Host.Outcome State Fault Refusal :=
  match keyIndex (s.getV x) with
  | none => raise .outOfBoundsAccess (zext16 (s.getV x)) s
  | some k => skipIf (s.key.get k) s

/-- SKNP Vx (R201). -/
def execSknp (x : Reg) (s : State) : Host.Outcome State Fault Refusal :=
  match keyIndex (s.getV x) with
  | none => raise .outOfBoundsAccess (zext16 (s.getV x)) s
  | some k => skipIf (!s.key.get k) s

/-- LD Vx,K (R203): the arming invocation when Running, a polling one when AwaitingKey. -/
def execLdVxK (x : Reg) (s : State) : Host.Outcome State Fault Refusal :=
  match s.mode with
  | .running =>
    complete .wait { s with latch := if s.cfg.armClearsLatch then none else s.latch, mode := .awaitingKey }
  | .awaitingKey =>
    match s.latch with
    | none => complete .wait s
    | some k => complete .advance (State.setV { s with latch := none, mode := .running } x (BitVec.ofNat 8 k.val))

end Sys2Proof.Machine
end

