-- ==== Sys2Proof/Machine/TimerIndexMemory.lean ====
section
/-! DEFINITION. 44_timer_index_memory.md: timer access, the index register, and RAM at `I`. -/

namespace Sys2Proof.Machine

/-- LD Vx,DT (R220). -/
def execLdVxDt (x : Reg) (s : State) : Host.Outcome State Fault Refusal :=
  complete .advance (s.setV x s.dt)

/-- LD DT,Vx (R221). -/
def execLdDtVx (x : Reg) (s : State) : Host.Outcome State Fault Refusal :=
  complete .advance { s with dt := s.getV x }

/-- LD ST,Vx (R222). -/
def execLdStVx (x : Reg) (s : State) : Host.Outcome State Fault Refusal :=
  complete .advance { s with st := s.getV x }

/-- LD I,nnn (R225). -/
def execLdI (nnn : Addr12) (s : State) : Host.Outcome State Fault Refusal :=
  complete .advance { s with i := imm12 nnn }

/-- ADD I,Vx (R226): modulo 65536, no flag. -/
def execAddIVx (x : Reg) (s : State) : Host.Outcome State Fault Refusal :=
  complete .advance { s with i := s.i + zext16 (s.getV x) }

/-- LD F,Vx (R227). -/
def execLdFVx (x : Reg) (s : State) : Host.Outcome State Fault Refusal :=
  complete .advance { s with i := fontAddress (s.getV x) }

/-- LD B,Vx (R231). -/
def execLdBVx (x : Reg) (s : State) : Host.Outcome State Fault Refusal :=
  match rangeError s.i.toNat 3 with
  | some info => raise .outOfBoundsAccess info s
  | none => complete .advance { s with ram := s.ram.writeBytes s.i.toNat (bcdDigits (s.getV x)) }

/-- LD [I],Vx (R233). -/
def execLdMemVx (x : Reg) (s : State) : Host.Outcome State Fault Refusal :=
  match rangeError s.i.toNat (x.val + 1) with
  | some info => raise .outOfBoundsAccess info s
  | none => complete .advance { s with ram := s.ram.writeBytes s.i.toNat (dumpBytes s x) }

/-- LD Vx,[I] (R235). -/
def execLdVxMem (x : Reg) (s : State) : Host.Outcome State Fault Refusal :=
  match rangeError s.i.toNat (x.val + 1) with
  | some info => raise .outOfBoundsAccess info s
  | none => complete .advance { s with v := loadRegs s.ram s.i.toNat s.v (x.val + 1) }

end Sys2Proof.Machine
end

