-- ==== Sys2Proof/Machine/Engine.lean ====
section
/-! DEFINITION. The Engine's `Step` (40_control_flow.md R124) and one action of any agent (00_scope.md R10). -/

namespace Sys2Proof.Machine

/-- `Step` (40_control_flow.md R124): a halted core does nothing and goes on reporting its error (R123); otherwise
fetch, classify, execute, apply and report the effect. -/
def engineStep (s : State) : Host.Outcome State Fault Refusal :=
  if s.halt.isSome then .next s
  else
    match s.fetch with
    | .error info => raise .outOfBoundsAccess info s
    | .ok w =>
      match decode w with
      | .ok i => exec i s
      | .error _ => unknownWord w s

/-- One atomic action of one agent (00_scope.md R10). Host actions are not blocked by a halt (95_test_vectors.md 2.8
row 2). -/
def act (a : Action) (s : State) : Host.Outcome State Fault Refusal :=
  match a with
  | .step => engineStep s
  | .clk => .next s.clkEdge
  | .tick => .next s.tick
  | .keyPress k => .next (s.keyPress k)
  | .keyRelease k => .next (s.keyRelease k)
  | .fbAck => .next s.fbAck
  | .reset rom launch => resetTo rom launch s

/-- The next action of the machine: the first of the agenda, or, when it is empty, a `Step` (assumption 5). Every
interleaving of 00_scope.md R11 is the run of some agenda. -/
def nextAction (s : State) : Host.Outcome State Fault Refusal :=
  match s.agenda with
  | [] => engineStep s
  | a :: rest => act a { s with agenda := rest }

/-- The state in which the next action is a `Step` that fetches: nothing on the agenda, not halted, and `PC` where both
bytes are in bounds (40_control_flow.md R120, R124). -/
def readyToFetch (s : State) : State :=
  { s with
    agenda := []
    halt := none
    pc := if (rangeError s.pc.toNat 2).isSome then BitVec.ofNat 16 progBase else s.pc }

/-- Store a word at `PC`, high byte first (20_memory.md R67). -/
def storeAtPc (s : State) (w : Word) : State :=
  { s with ram := s.ram.writeBytes s.pc.toNat [hiByte w, loByte w] }

end Sys2Proof.Machine
end

