-- ==== Sys2Proof/Machine/Step.lean ====
section
/-! DEFINITION. One step of the machine, and placing an instruction where the next step fetches it. -/

namespace Sys2Proof.Machine

/-- One action of the machine (00_scope.md R10, R11). -/
def step (s : State) : Host.Outcome State Fault Refusal := nextAction s

/-- `s` with the instruction of a table row's bits stored where the very next step fetches it. A ROM is loaded from
outside the core (00_scope.md R8); this stands for such a load (assumption 6). -/
def State.withFetchWord (s : State) (nbits w : Nat) : State := storeAtPc (readyToFetch s) (tableWord nbits w)

end Sys2Proof.Machine
end

