-- ==== Sys2Proof/Safety.lean ====
section
/-! DEFINITION. The terms claims are stated in: which states the machine may be in (the invariant), what a safe run
and the end of a run are (70_reset_and_hazards.md R299, 60_exceptions.md R256), and what two states agree on. -/

namespace Sys2Proof.Machine

/-! ### The invariant of the machine -/

/-- RAM is in its canonical form. -/
abbrev State.ramOk (s : State) : Prop := s.ram.wf

/-- `STACK_DEPTH` slots and `SP` at most `STACK_DEPTH` (10_state.md R29). -/
abbrev State.stackOk (s : State) : Prop := s.stack.length = s.cfg.stackDepth ∧ s.sp ≤ s.cfg.stackDepth

/-- Every slot holds an address a `CALL` can push: 2 more than a `PC` that could be fetched from, so at most 0x1000
(40_control_flow.md R125). The dead slots are included: that they hold it after reset rests on assumption 10. -/
abbrev State.slotsOk (s : State) : Prop := ∀ a ∈ s.stack, a.toNat ≤ 0x1000

/-- `PC` is at most 0x10FE (10_state.md R27). -/
abbrev State.pcOk (s : State) : Prop := s.pc.toNat ≤ 0x10FE

/-- `FB_H` rows of `FB_W` cells (10_state.md R33). -/
abbrev State.fbOk (s : State) : Prop := s.fb.length = s.cfg.fbH ∧ ∀ row ∈ s.fb, row.length = s.cfg.fbW

/-- `DIV` is in 0 .. CLK_HZ/60 − 1 (10_state.md R31). -/
abbrev State.divOk (s : State) : Prop := s.div < clkHz / tickHz

/-- While AwaitingKey, the word at `PC` is an `Fx0A` (43_keypad.md R204). -/
abbrev State.waitOk (s : State) : Prop :=
  s.mode = .awaitingKey → ∃ w x, s.fetch = .ok w ∧ decode w = .ok (.ldVxK x)

/-- Every state a run reaches meets this. The constraints of 00_scope.md R6 are no clause: they are in the type of
`Config`. -/
structure State.Inv (s : State) : Prop where
  ram : s.ramOk
  stack : s.stackOk
  slots : s.slotsOk
  pc : s.pcOk
  fb : s.fbOk
  div : s.divOk
  wait : s.waitOk

/-! ### Runs -/

/-- No error has halted the core: a halted state is a failed run (60_exceptions.md R256, 70_reset_and_hazards.md R299). -/
def State.safe (s : State) : Bool := s.halt.isNone

/-- The end of a run: not halted, Running, and the word at `PC` jumps to `PC` (70_reset_and_hazards.md R299). -/
def State.ended (s : State) : Bool :=
  s.halt.isNone && s.mode == .running &&
    match s.fetch with
    | .ok w => w == encode (.jp (s.pc.setWidth 12)) && s.pc == imm12 (s.pc.setWidth 12)
    | .error _ => false

/-- The machine's own state, without the step's outputs (00_scope.md R12) and the model's two fields: what 10_state.md
R20 calls the complete state, with the outputs, the draw counter and the agenda set to fixed values. -/
def State.architectural (s : State) : State :=
  { s with effect := none, unknownEvent := none, draws := 0, agenda := [] }

/-! ### How a step ended -/

/-- The step ended with Advance and no error (40_control_flow.md R122). -/
def advances (s t : State) : Prop :=
  t.pc = s.pc + 2 ∧ t.effect = some .advance ∧ t.unknownEvent = none ∧ t.halt = s.halt

/-- The state after a compare-and-skip: `PC` passes one instruction more when `b`, the effect is reported, and nothing else
changes (40_control_flow.md R122, R131). -/
def skipped (b : Bool) (s : State) : State :=
  { s with pc := if b then s.pc + 4 else s.pc + 2, effect := some (if b then .skip else .advance),
           unknownEvent := none }

/-- Every data register but x is the same. -/
def onlyReg (x : Reg) (s t : State) : Prop := ∀ r, r ≠ x → t.getV r = s.getV r

/-- Every data register but x and VF is the same. -/
def onlyRegAndVF (x : Reg) (s t : State) : Prop := ∀ r, r ≠ x → r ≠ vf → t.getV r = s.getV r

/-- The step ended with Wait and no error (40_control_flow.md R122). -/
def waits (s t : State) : Prop :=
  t.pc = s.pc ∧ t.effect = some .wait ∧ t.unknownEvent = none ∧ t.halt = s.halt

/-- The state after an error: `HALT` records it, no effect and no event is reported, and nothing else has changed
(60_exceptions.md R256). -/
def erred (s : State) (k : ErrorKind) (info : Word) : State :=
  { s with halt := some (k, info), effect := none, unknownEvent := none }

/-! ### Sprites -/

/-- A set bit of the sprite lands on this cell: pixel (column c, row k) of `DRW Vx,Vy,n` (42_display.md R181, R182,
R184). -/
def targeted (s : State) (x y : Reg) (n : Nibble) (row col : Nat) : Prop :=
  ∃ k c, k < n.toNat ∧ c < 8 ∧ (s.ram.read (s.i.toNat + k)).getLsbD (7 - c) = true ∧
    row = ((s.getV y).toNat + k) % s.cfg.fbH ∧ col = ((s.getV x).toNat + c) % s.cfg.fbW

/-! ### What an instruction leaves unchanged -/

/-- The families of the opcode table, by the file of the spec that gives the instruction's meaning. -/
inductive Family where
  /-- 40_control_flow.md -/
  | control
  /-- 41_alu.md -/
  | alu
  /-- 42_display.md -/
  | display
  /-- 43_keypad.md -/
  | keypad
  /-- 44_timer_index_memory.md -/
  | timerIndexMemory
  deriving DecidableEq, Repr

/-- The family of each instruction (30_encoding.md R96, column "semantics rule"). -/
def familyOf : Instr → Family
  | .ret | .jp _ | .call _ | .jpV0 _ _ | .seImm _ _ | .sneImm _ _ | .seReg _ _ | .sneReg _ _ => .control
  | .ldImm _ _ | .addImm _ _ | .ldReg _ _ | .orReg _ _ | .andReg _ _ | .xorReg _ _ | .addReg _ _ | .subReg _ _
  | .shr _ _ | .subnReg _ _ | .shl _ _ | .rnd _ _ => .alu
  | .cls | .drw _ _ _ => .display
  | .skp _ | .sknp _ | .ldVxK _ => .keypad
  | .ldVxDt _ | .ldDtVx _ | .ldStVx _ | .ldI _ | .addIVx _ | .ldFVx _ | .ldBVx _ | .ldMemVx _
  | .ldVxMem _ => .timerIndexMemory

/-- The data registers an instruction may write (10_state.md R22, column "writes"). -/
def writtenRegs (c : Config) : Instr → List Reg
  | .ldImm x _ | .addImm x _ | .ldReg x _ | .rnd x _ | .ldVxDt x | .ldVxK x => [x]
  | .orReg x _ | .andReg x _ | .xorReg x _ => if c.logicResetVF then [x, vf] else [x]
  | .addReg x _ | .subReg x _ | .subnReg x _ | .shr x _ | .shl x _ => [x, vf]
  | .drw _ _ _ => [vf]
  | .ldVxMem x => (List.finRange 16).filter fun r => r ≤ x
  | .cls | .ret | .jp _ | .call _ | .jpV0 _ _ | .seImm _ _ | .sneImm _ _ | .seReg _ _ | .sneReg _ _ | .ldI _
  | .skp _ | .sknp _ | .ldDtVx _ | .ldStVx _ | .addIVx _ | .ldFVx _ | .ldBVx _ | .ldMemVx _ => []

/-- How many bytes of RAM from `I` on an instruction writes (20_memory.md R72). -/
def storedCount : Instr → Nat
  | .ldBVx _ => 3
  | .ldMemVx x => x.val + 1
  | .cls | .ret | .jp _ | .call _ | .jpV0 _ _ | .seImm _ _ | .sneImm _ _ | .seReg _ _ | .sneReg _ _ | .ldImm _ _
  | .addImm _ _ | .ldReg _ _ | .orReg _ _ | .andReg _ _ | .xorReg _ _ | .addReg _ _ | .subReg _ _ | .shr _ _
  | .subnReg _ _ | .shl _ _ | .rnd _ _ | .drw _ _ _ | .skp _ | .sknp _ | .ldVxK _ | .ldVxDt _ | .ldDtVx _
  | .ldStVx _ | .ldI _ | .addIVx _ | .ldFVx _ | .ldVxMem _ => 0

/-- The instructions that can raise an error of their own (60_exceptions.md R257, check 4). -/
def canRaise : Instr → Bool
  | .ret | .call _ | .skp _ | .sknp _ | .drw _ _ _ | .ldBVx _ | .ldMemVx _ | .ldVxMem _ => true
  | .cls | .jp _ | .jpV0 _ _ | .seImm _ _ | .sneImm _ _ | .seReg _ _ | .sneReg _ _ | .ldImm _ _ | .addImm _ _
  | .ldReg _ _ | .orReg _ _ | .andReg _ _ | .xorReg _ _ | .addReg _ _ | .subReg _ _ | .shr _ _ | .subnReg _ _
  | .shl _ _ | .rnd _ _ | .ldVxK _ | .ldVxDt _ | .ldDtVx _ | .ldStVx _ | .ldI _ | .addIVx _ | .ldFVx _ => false

/-- What instruction `i` leaves unchanged from `s` to `t`: the column "written by" of 10_state.md R20, element by
element. `PC`, `effect` and `unknownEvent` may change in every step (40_control_flow.md R122). -/
structure Frame (i : Instr) (s t : State) : Prop where
  /-- R22 -/
  regs : ∀ r, r ∉ writtenRegs s.cfg i → t.getV r = s.getV r
  /-- R25: `I` is written by `LD I,nnn`, `ADD I,Vx`, `LD F,Vx` alone -/
  index : (∀ nnn, i ≠ .ldI nnn) → (∀ x, i ≠ .addIVx x) → (∀ x, i ≠ .ldFVx x) → t.i = s.i
  /-- R29: the stack is written by `CALL` and `RET` alone, and `RET` leaves the slots -/
  slots : (∀ nnn, i ≠ .call nnn) → t.stack = s.stack
  sp : (∀ nnn, i ≠ .call nnn) → i ≠ .ret → t.sp = s.sp
  /-- R30 -/
  dt : (∀ x, i ≠ .ldDtVx x) → t.dt = s.dt
  st : (∀ x, i ≠ .ldStVx x) → t.st = s.st
  /-- R72: every byte of RAM outside the ones the instruction stores to, which start at `I` -/
  ram : ∀ a, a < s.i.toNat ∨ s.i.toNat + storedCount i ≤ a → t.ram.read a = s.ram.read a
  /-- R33, R36, R186 -/
  display : i ≠ .cls → (∀ x y n, i ≠ .drw x y n) → t.fb = s.fb ∧ t.dirty = s.dirty
  /-- R38, R39 -/
  wait : (∀ x, i ≠ .ldVxK x) → t.latch = s.latch ∧ t.mode = s.mode
  /-- R40 -/
  halt : canRaise i = false → t.halt = s.halt
  /-- R7, R31, R37: no instruction changes the parameters, the divider or the key flags -/
  never : t.cfg = s.cfg ∧ t.div = s.div ∧ t.key = s.key
  /-- the model's own fields: only `RND` draws, and no instruction touches the agenda -/
  own : t.agenda = s.agenda ∧ ((∀ x nn, i ≠ .rnd x nn) → t.draws = s.draws)

end Sys2Proof.Machine
end

