-- ==== Sys2Proof/Certificates/Slice0/Obligations.lean ====
section
/-! DEFINITION. The statements for the provers, from the numbered rules of spec/: encoding, the step, each family's
results and frames, the agents, the errors, reset, and the rules about the whole machine. -/

open Sys2Proof Sys2Proof.Machine

/-! ### Encoding (30_encoding.md) -/

/-- R90 to R92, R96: no bit of an encoding is dropped. Every well-formed instruction, with every operand at every
value, is read back from its word. The patterns themselves are the spec's general knowledge for 31 of the 34 rows (log
entry 12). -/
def Obligations.DecodeOfEncode : Prop :=
  ∀ i : Instr, i.wellFormed = true → decode (encode i) = .ok i

/-- R90, R98: decoding is strict. A word that decodes is exactly the word of the instruction it decodes to, and that
instruction is well-formed. Strictness is the spec's decision D14 (log entry 12). -/
def Obligations.EncodeOfDecode : Prop :=
  ∀ (w : Word) (i : Instr), decode w = .ok i → i.wellFormed = true ∧ encode i = w

/-- R96: a word is of a row's kind exactly when `w & mask = match`. The patterns marked GK are the spec's general
knowledge (log entry 12). -/
def Obligations.KindExactlyWhenRowMatches : Prop :=
  ∀ (i : Instr) (w : Word),
    w &&& (tableRow i).1 = (tableRow i).2 ↔ ∃ j, decode w = .ok j ∧ tableRow j = tableRow i

/-- R97 (its table, without the counts), R98: the Unknown words, group by group. Strictness is the spec's decision D14
(log entry 12). -/
def Obligations.UnknownWordsByGroup : Prop :=
  ∀ w : Word, (∃ r, decode w = .error r) ↔
    (fieldOp w = 0x0 ∧ w ≠ 0x00E0 ∧ w ≠ 0x00EE) ∨
    (fieldOp w = 0x5 ∧ fieldN w ≠ 0) ∨
    (fieldOp w = 0x8 ∧ fieldN w ∈ [0x8, 0x9, 0xA, 0xB, 0xC, 0xD, 0xF]) ∨
    (fieldOp w = 0x9 ∧ fieldN w ≠ 0) ∨
    (fieldOp w = 0xE ∧ loByte w ≠ 0x9E ∧ loByte w ≠ 0xA1) ∨
    (fieldOp w = 0xF ∧ loByte w ∉ [0x07, 0x0A, 0x15, 0x18, 0x1E, 0x29, 0x33, 0x55, 0x65])

/-- R105: the three words the document itself decodes, with the fields of the third. -/
def Obligations.DocumentWordsDecode : Prop :=
  decode 0x00E0 = .ok .cls ∧ decode 0xA123 = .ok (.ldI 0x123) ∧ decode 0xD015 = .ok (.drw 0 1 5) ∧
    fieldOp 0xD015 = 0xD ∧ fieldX 0xD015 = 0 ∧ fieldY 0xD015 = 1 ∧ fieldN 0xD015 = 5

/-! ### The step (40_control_flow.md, 30_encoding.md R99) -/

/-- R120, R121, R124: when nothing else is to act, the core is not halted and the two bytes at `PC` decode to `i`, the
step is `exec i`; the same when the agenda's first action is a `Step`, which is then taken off it. The agenda is the
model's own (log entry 5). -/
def Obligations.StepRunsDecodedInstruction : Prop :=
  ∀ (s : State) (i : Instr), s.halt = none → s.pc.toNat ≤ 0x0FFE →
    decode (wordOfBytes (s.ram.read s.pc.toNat) (s.ram.read (s.pc.toNat + 1))) = .ok i →
    (s.agenda = [] → step s = exec i s) ∧
    (∀ rest, s.agenda = Action.step :: rest → step s = exec i { s with agenda := rest })

/-- R10, R11: the agenda decides which agent acts; its first action is performed and taken off. The agenda is the
model's own (log entry 5). -/
def Obligations.AgendaHeadActs : Prop :=
  ∀ (s : State) (a : Action) (rest : List Action), s.agenda = a :: rest →
    step s = act a { s with agenda := rest }

/-- R120: the fetch, its bound and its information word, and that a failing fetch is a failing step. No check of
alignment and the information word are the spec's decisions D6, D34 (log entries 18, 23). -/
def Obligations.FetchBigEndianOrOutOfBounds : Prop :=
  ∀ s : State,
    s.fetch = (if 0x0FFE < s.pc.toNat then .error (if 0x0FFF < s.pc.toNat then s.pc else s.pc + 1)
      else .ok (s.ram.read s.pc.toNat ++ s.ram.read (s.pc.toNat + 1))) ∧
    (s.halt = none → s.agenda = [] → 0x0FFE < s.pc.toNat →
      step s = .next (erred s .outOfBoundsAccess (if 0x0FFF < s.pc.toNat then s.pc else s.pc + 1)))

/-- R99: what an Unknown word does, in both settings of `UNKNOWN_FATAL`. The reaction and the default are the spec's
decision D13 (log entry 16); the event is a field (log entry 7). -/
def Obligations.UnknownWordHaltsOrAdvances : Prop :=
  ∀ (s : State) (w : Word) (r : Reject), s.halt = none → s.agenda = [] → s.fetch = .ok w → decode w = .error r →
    step s = .next (if s.cfg.unknownFatal then { erred s .unknownInstruction w with unknownEvent := some w }
      else { s with pc := s.pc + 2, effect := some .advance, unknownEvent := some w })

/-- R123: a step that raises an error writes nothing, sets `HALT` and reports no effect; a step of a halted core
changes nothing and goes on reporting the same error. The spec's decisions D15, D27 (log entries 15, 22). -/
def Obligations.ErrorsWriteNothing : Prop :=
  ∀ s t : State, s.agenda = [] → step s = .next t →
    (s.halt = none → t.halt ≠ none →
      t = { s with halt := t.halt, effect := none, unknownEvent := t.unknownEvent }) ∧
    (s.halt ≠ none → t = s)

/-- R40, R256: nothing but a reset ends a halt; until then the error, `PC`, `SP`, the stack, V, `I`, `DT`, `ST`, RAM,
the framebuffer and `MODE` stay. `KEY`, `LATCH`, `DIRTY` and `DIV` are not listed: host actions and `clk` go on
(95_test_vectors.md 2.8 row 2; log entry 9). The spec's decision D27 (log entry 15). -/
def Obligations.HaltLastsUntilReset : Prop :=
  ∀ (s t : State) (e : ErrorKind × Word), s.halt = some e →
    (∀ rom launch rest, s.agenda ≠ Action.reset rom launch :: rest) → step s = .next t →
    t.halt = some e ∧ t.pc = s.pc ∧ t.sp = s.sp ∧ t.stack = s.stack ∧ t.v = s.v ∧ t.i = s.i ∧
      t.dt = s.dt ∧ t.st = s.st ∧ t.ram = s.ram ∧ t.fb = s.fb ∧ t.mode = s.mode

/-- R250, R256, R257: which errors a fetched instruction can raise, and with which information word. Conditions and
information words are in part the spec's decisions D4, D15, D16, D34 (log entries 18, 21, 22, 23). -/
def Obligations.ErrorsRaisedByInstructions : Prop :=
  ∀ (i : Instr) (s t : State) (k : ErrorKind) (info : Word), s.halt = none → exec i s = .next t →
    t.halt = some (k, info) →
    (i = .ret ∧ k = .stackUnderflow ∧ info = s.pc ∧ s.sp = 0) ∨
    (∃ nnn, i = .call nnn ∧ k = .stackOverflow ∧ info = s.pc ∧ s.sp = s.cfg.stackDepth) ∨
    (∃ x, (i = .skp x ∨ i = .sknp x) ∧ k = .outOfBoundsAccess ∧ info.toNat = (s.getV x).toNat ∧
      15 < (s.getV x).toNat) ∨
    (k = .outOfBoundsAccess ∧ info.toNat = max s.i.toNat 0x1000 ∧
      ((∃ x y n, i = .drw x y n ∧ 0 < n.toNat ∧ 0x0FFF < s.i.toNat + n.toNat - 1) ∨
       (∃ x, i = .ldBVx x ∧ 0x0FFF < s.i.toNat + 2) ∨
       (∃ x, (i = .ldMemVx x ∨ i = .ldVxMem x) ∧ 0x0FFF < s.i.toNat + x.val)))

/-! ### Control flow (40_control_flow.md) -/

/-- R125: RET on an empty stack is StackUnderflow; otherwise it pops the newest address into `PC`. The information
word is the spec's decision D34 (log entry 23). -/
def Obligations.ReturnPopsOrUnderflows : Prop :=
  ∀ s : State,
    (s.sp = 0 → exec .ret s = .next (erred s .stackUnderflow s.pc)) ∧
    (∀ a, s.sp ≠ 0 → s.stack[s.sp - 1]? = some a →
      exec .ret s = .next { s with sp := s.sp - 1, pc := a, effect := some .ret, unknownEvent := none })

/-- R126: JP sets `PC` to the zero-extended target and changes nothing else. -/
def Obligations.JumpLoadsTarget : Prop :=
  ∀ (nnn : Addr12) (s : State), ∃ a : Word, a.toNat = nnn.toNat ∧
    exec (.jp nnn) s = .next { s with pc := a, effect := some (.jump a), unknownEvent := none }

/-- R127: CALL on a full stack is StackOverflow; with room it pushes PC + 2 in slot `SP`, adds 1 to `SP` and jumps.
Bound and return address are the spec's decisions D4, D7 (log entry 18). -/
def Obligations.CallPushesOrOverflows : Prop :=
  ∀ (nnn : Addr12) (s : State), s.stackOk →
    (s.sp = s.cfg.stackDepth → exec (.call nnn) s = .next (erred s .stackOverflow s.pc)) ∧
    (s.sp < s.cfg.stackDepth → ∃ a : Word, a.toNat = nnn.toNat ∧
      exec (.call nnn) s = .next { s with
        stack := s.stack.set s.sp (s.pc + 2), sp := s.sp + 1, pc := a, effect := some (.call a),
        unknownEvent := none })

/-- R130: jump-with-offset, both settings of `JUMP_OFFSET_VX`; `x` is the top nibble of `nnn` when the instruction is
well-formed. The sum is not reduced. No reduction is the spec's decision D12 (log entry 18). -/
def Obligations.JumpWithOffsetAddsRegister : Prop :=
  ∀ (nnn : Addr12) (x : Reg) (s : State), ∃ a : Word,
    a.toNat = nnn.toNat + (s.getV (if s.cfg.jumpOffsetVX then x else 0)).toNat ∧
    exec (.jpV0 nnn x) s = .next { s with pc := a, effect := some (.jump a), unknownEvent := none }

/-- R131 to R134: the four compare-and-skip instructions: Skip or Advance, and nothing else changes. -/
def Obligations.ComparesSkipOrAdvance : Prop :=
  ∀ (x y : Reg) (nn : Byte) (s : State),
    exec (.seImm x nn) s = .next (skipped (s.getV x = nn) s) ∧
    exec (.sneImm x nn) s = .next (skipped (s.getV x ≠ nn) s) ∧
    exec (.seReg x y) s = .next (skipped (s.getV x = s.getV y) s) ∧
    exec (.sneReg x y) s = .next (skipped (s.getV x ≠ s.getV y) s)

/-- R29, R122, R125, R127: a return undoes a call. Whatever ran in between, if it left the stack as the call did, the
return resumes after the call, with the stack as deep as before and every live entry below intact. The return address
is the spec's decision D7 (log entry 18). -/
def Obligations.ReturnUndoesCall : Prop :=
  ∀ (nnn : Addr12) (s t u : State), s.stackOk → s.sp < s.cfg.stackDepth → exec (.call nnn) s = .next t →
    u.stack = t.stack → u.sp = t.sp →
    ∃ r, exec .ret u = .next r ∧ r.pc = s.pc + 2 ∧ r.sp = s.sp ∧ ∀ j, j < s.sp → r.stack[j]? = s.stack[j]?

/-! ### The ALU datapath (41_alu.md) -/

/-- R150, R151: the two loads write V[x] and no other register. -/
def Obligations.LoadsWriteDestination : Prop :=
  ∀ (x y : Reg) (nn : Byte) (s : State),
    (∃ t, exec (.ldImm x nn) s = .next t ∧ t.getV x = nn ∧ onlyReg x s t ∧ advances s t) ∧
    (∃ t, exec (.ldReg x y) s = .next t ∧ t.getV x = s.getV y ∧ onlyReg x s t ∧ advances s t)

/-- R153 to R155: the three logic instructions, bit by bit, and VF in both settings of `LOGIC_RESET_VF`, which is
written after the result. Flag last is the spec's decision D8 (log entry 19). -/
def Obligations.LogicWritesResultThenVF : Prop :=
  ∀ (x y : Reg) (s : State),
    (∃ t, exec (.orReg x y) s = .next t ∧ advances s t ∧ onlyRegAndVF x s t ∧
      (s.cfg.logicResetVF = false → onlyReg x s t) ∧
      (s.cfg.logicResetVF = true → t.getV vf = 0) ∧
      (s.cfg.logicResetVF = false ∨ x ≠ vf →
        ∀ b < 8, (t.getV x).getLsbD b = ((s.getV x).getLsbD b || (s.getV y).getLsbD b))) ∧
    (∃ t, exec (.andReg x y) s = .next t ∧ advances s t ∧ onlyRegAndVF x s t ∧
      (s.cfg.logicResetVF = false → onlyReg x s t) ∧
      (s.cfg.logicResetVF = true → t.getV vf = 0) ∧
      (s.cfg.logicResetVF = false ∨ x ≠ vf →
        ∀ b < 8, (t.getV x).getLsbD b = ((s.getV x).getLsbD b && (s.getV y).getLsbD b))) ∧
    (∃ t, exec (.xorReg x y) s = .next t ∧ advances s t ∧ onlyRegAndVF x s t ∧
      (s.cfg.logicResetVF = false → onlyReg x s t) ∧
      (s.cfg.logicResetVF = true → t.getV vf = 0) ∧
      (s.cfg.logicResetVF = false ∨ x ≠ vf →
        ∀ b < 8, (t.getV x).getLsbD b = ((s.getV x).getLsbD b != (s.getV y).getLsbD b)))

/-- R156: add immediate wraps modulo 256; no register but the destination is written, so VF is only if
`x` is 15. -/
def Obligations.AddImmediateWraps : Prop :=
  ∀ (x : Reg) (nn : Byte) (s : State), ∃ t, exec (.addImm x nn) s = .next t ∧
    (t.getV x).toNat = ((s.getV x).toNat + nn.toNat) % 256 ∧ onlyReg x s t ∧ advances s t

/-- R157: add register; VF is the carry whatever `x` is, and V[x] the wrapped sum unless `x` is VF. That VF is the
carry even when `x` is VF is the spec's decision D8 (log entry 19). -/
def Obligations.AddRegisterSetsCarry : Prop :=
  ∀ (x y : Reg) (s : State), ∃ t, exec (.addReg x y) s = .next t ∧
    t.getV vf = (if (s.getV x).toNat + (s.getV y).toNat ≥ 256 then 1 else 0) ∧
    (x ≠ vf → (t.getV x).toNat = ((s.getV x).toNat + (s.getV y).toNat) % 256) ∧ onlyRegAndVF x s t ∧ advances s t

/-- R158, R159: the two subtractions; VF is NOT-borrow, V[x] the wrapped difference unless `x` is VF. That VF is the
flag even when `x` is VF is the spec's decision D8 (log entry 19). -/
def Obligations.SubtractsSetNotBorrow : Prop :=
  ∀ (x y : Reg) (s : State),
    (∃ t, exec (.subReg x y) s = .next t ∧
      t.getV vf = (if (s.getV x).toNat ≥ (s.getV y).toNat then 1 else 0) ∧
      (x ≠ vf → (t.getV x).toNat = ((s.getV x).toNat + 256 - (s.getV y).toNat) % 256) ∧ onlyRegAndVF x s t ∧
      advances s t) ∧
    (∃ t, exec (.subnReg x y) s = .next t ∧
      t.getV vf = (if (s.getV y).toNat ≥ (s.getV x).toNat then 1 else 0) ∧
      (x ≠ vf → (t.getV x).toNat = ((s.getV y).toNat + 256 - (s.getV x).toNat) % 256) ∧ onlyRegAndVF x s t ∧
      advances s t)

/-- R160, R161: the two shifts by one, both settings of `SHIFT_SRC_Y`; VF is the bit shifted out of the source, V[x]
the shifted source unless `x` is VF; no other register is written, V[y] among them. Destination and flag last are the
spec's decisions D9, D8 (log entry 19). -/
def Obligations.ShiftsMoveOneBit : Prop :=
  ∀ (x y : Reg) (s : State) (src : Byte), src = (if s.cfg.shiftSrcY then s.getV y else s.getV x) →
    (∃ t, exec (.shr x y) s = .next t ∧ (t.getV vf).toNat = src.toNat % 2 ∧
      (x ≠ vf → (t.getV x).toNat = src.toNat / 2) ∧ onlyRegAndVF x s t ∧ advances s t) ∧
    (∃ t, exec (.shl x y) s = .next t ∧ (t.getV vf).toNat = src.toNat / 128 ∧
      (x ≠ vf → (t.getV x).toNat = src.toNat * 2 % 256) ∧ onlyRegAndVF x s t ∧ advances s t)

/-- R162: the result is the draw ANDed with the mask, whatever the draw is (it is the free value of assumption 3); the
one certain property is that no bit outside the mask is set. The next draw is a new one. -/
def Obligations.RandomStaysInMask : Prop :=
  ∀ (x : Reg) (nn : Byte) (s : State), ∃ t, exec (.rnd x nn) s = .next t ∧
    t.getV x = Config.freeDraw s.draws &&& nn ∧ t.getV x &&& ~~~nn = 0 ∧ t.draws = s.draws + 1 ∧
    onlyReg x s t ∧ advances s t

/-! ### The display (42_display.md) -/

/-- R180: clear screen. Every cell of the `FB_H` rows and `FB_W` columns is 0, and the framebuffer has all of them. -/
def Obligations.ClearScreenZeroesEveryCell : Prop :=
  ∀ s : State, ∃ t, exec .cls s = .next t ∧ t.fbOk ∧
    (∀ row < s.cfg.fbH, ∀ col < s.cfg.fbW, t.fb.cell row col = false) ∧ t.dirty = true ∧
    t.getV vf = s.getV vf ∧ advances s t

/-- R181 to R183: with every sprite byte in RAM (or none at all), the draw completes: exactly the targeted cells flip,
wrapped per pixel, and `DIRTY` is set. Bit 7 as column 0, and n = 0, are the spec's decisions D21, D22 (log entry 20).
-/
def Obligations.DrawFlipsExactlyTargets : Prop :=
  ∀ (x y : Reg) (n : Nibble) (s : State), s.fbOk → (n = 0 ∨ s.i.toNat + n.toNat - 1 ≤ 0x0FFF) →
    ∃ t, exec (.drw x y n) s = .next t ∧ t.dirty = true ∧ advances s t ∧
      ∀ row col,
        (targeted s x y n row col → t.fb.cell row col = !s.fb.cell row col) ∧
        (¬ targeted s x y n row col → t.fb.cell row col = s.fb.cell row col)

/-- R184: after a draw that does not fail, VF is 0x01 exactly when some targeted cell held 1 before the instruction,
and 0x00 otherwise. The bit order is the spec's decision D21 (log entry 20). -/
def Obligations.CollisionFlagExactly : Prop :=
  ∀ (x y : Reg) (n : Nibble) (s : State), s.fbOk → (n = 0 ∨ s.i.toNat + n.toNat - 1 ≤ 0x0FFF) →
    ∃ t, exec (.drw x y n) s = .next t ∧
      ((∃ row col, targeted s x y n row col ∧ s.fb.cell row col = true) → t.getV vf = 1) ∧
      ((∀ row col, targeted s x y n row col → s.fb.cell row col = false) → t.getV vf = 0)

/-- R185: two draws with the same V[x], V[y], n, I and RAM bytes restore the framebuffer, and the second leaves VF
0x01 exactly when some targeted cell held 0 before the first. The bit order is the spec's decision D21 (log entry 20).
-/
def Obligations.DrawingTwiceRestores : Prop :=
  ∀ (x y : Reg) (n : Nibble) (s t u : State), s.fbOk →
    (n = 0 ∨ s.i.toNat + n.toNat - 1 ≤ 0x0FFF) → exec (.drw x y n) s = .next t →
    u.fb = t.fb → u.cfg = s.cfg → u.i = s.i → u.getV x = s.getV x → u.getV y = s.getV y →
    (∀ k < n.toNat, u.ram.read (s.i.toNat + k) = s.ram.read (s.i.toNat + k)) →
    ∃ r, exec (.drw x y n) u = .next r ∧ r.fb = s.fb ∧
      ((∃ row col, targeted s x y n row col ∧ s.fb.cell row col = false) → r.getV vf = 1) ∧
      ((∀ row col, targeted s x y n row col → s.fb.cell row col = true) → r.getV vf = 0)

/-- R183: the error of a draw, and the draw of no rows, which cannot fail whatever `I` holds. The spec's decisions
D15, D22 (log entries 20, 22). -/
def Obligations.DrawEdgeCases : Prop :=
  ∀ (x y : Reg) (n : Nibble) (s : State),
    (0 < n.toNat → 0x0FFF < s.i.toNat + n.toNat - 1 →
      exec (.drw x y n) s = .next (erred s .outOfBoundsAccess (BitVec.ofNat 16 (max s.i.toNat 0x1000)))) ∧
    (∃ t, exec (.drw x y 0) s = .next t ∧ t.fb = s.fb ∧ t.getV vf = 0 ∧ t.dirty = true ∧ advances s t)

/-! ### The keypad (43_keypad.md) -/

/-- R200, R201: the two skips on a key's level, and the error of a key index above 15. The error is the spec's
decision D16 (log entry 21). -/
def Obligations.KeySkipsReadLevel : Prop :=
  ∀ (x : Reg) (s : State),
    (15 < (s.getV x).toNat →
      exec (.skp x) s = .next (erred s .outOfBoundsAccess ((s.getV x).setWidth 16)) ∧
      exec (.sknp x) s = .next (erred s .outOfBoundsAccess ((s.getV x).setWidth 16))) ∧
    (∀ k : Key, (s.getV x).toNat = k.val →
      exec (.skp x) s = .next (skipped (s.key.get k = true) s) ∧
      exec (.sknp x) s = .next (skipped (s.key.get k = false) s))

/-- R203: the arming invocation, a poll with no key, and the completing poll. What arming does to the latch is the
spec's parameter of D19 (log entry 21). -/
def Obligations.KeyWaitProtocol : Prop :=
  ∀ (x : Reg) (s : State),
    (s.mode = .running → ∃ t, exec (.ldVxK x) s = .next t ∧ t.mode = .awaitingKey ∧
      t.latch = (if s.cfg.armClearsLatch then none else s.latch) ∧ t.v = s.v ∧ waits s t) ∧
    (s.mode = .awaitingKey → s.latch = none → ∃ t, exec (.ldVxK x) s = .next t ∧ t.mode = .awaitingKey ∧
      t.latch = none ∧ t.v = s.v ∧ waits s t) ∧
    (∀ k : Key, s.mode = .awaitingKey → s.latch = some k → ∃ t, exec (.ldVxK x) s = .next t ∧ t.mode = .running ∧
      t.latch = none ∧ (t.getV x).toNat = k.val ∧ onlyReg x s t ∧ advances s t)

/-- R38, R202, R205: a key press is not lost. Whatever the machine does next, the latched key stays latched, unless a
later press replaces it, a reset clears it, or an `LD Vx,K` takes it (a poll that delivers it, or an arming one under
`ARM_CLEARS_LATCH`). The spec's decision D19 (log entry 21). -/
def Obligations.LatchedKeyIsNotLost : Prop :=
  ∀ (s t : State) (k : Key), s.latch = some k → step s = .next t →
    t.latch = some k ∨
    (∃ k' rest, s.agenda = Action.keyPress k' :: rest ∧ t.latch = some k') ∨
    (∃ rom launch rest, s.agenda = Action.reset rom launch :: rest) ∨
    (∃ w x, s.fetch = .ok w ∧ decode w = .ok (.ldVxK x) ∧ t.latch = none ∧
      ((s.mode = .awaitingKey ∧ (t.getV x).toNat = k.val) ∨ (s.mode = .running ∧ s.cfg.armClearsLatch = true)))

/-! ### Timers, index register, RAM at I (44_timer_index_memory.md) -/

/-- R220 to R222: the three copies between a register and a timer; the sound line follows ST. -/
def Obligations.TimerCopies : Prop :=
  ∀ (x : Reg) (s : State),
    (∃ t, exec (.ldVxDt x) s = .next t ∧ t.getV x = s.dt ∧ t.dt = s.dt ∧ t.div = s.div ∧ onlyReg x s t ∧
      advances s t) ∧
    (∃ t, exec (.ldDtVx x) s = .next t ∧ t.dt = s.getV x ∧ t.div = s.div ∧ t.v = s.v ∧ advances s t) ∧
    (∃ t, exec (.ldStVx x) s = .next t ∧ t.st = s.getV x ∧ t.div = s.div ∧ t.v = s.v ∧
      (t.soundOn = true ↔ s.getV x ≠ 0) ∧ advances s t)

/-- R225 to R227: the three writes of `I`; the addition wraps at 16 bits and the font address is not masked. No flag
and no mask are the spec's decisions D31, D17 (log entries 19, 22). -/
def Obligations.IndexWrites : Prop :=
  ∀ (x : Reg) (nnn : Addr12) (s : State),
    (∃ t, exec (.ldI nnn) s = .next t ∧ t.i.toNat = nnn.toNat ∧ advances s t) ∧
    (∃ t, exec (.addIVx x) s = .next t ∧ t.i.toNat = (s.i.toNat + (s.getV x).toNat) % 65536 ∧ t.v = s.v ∧
      advances s t) ∧
    (∃ t, exec (.ldFVx x) s = .next t ∧ t.i.toNat = 5 * (s.getV x).toNat ∧ advances s t)

/-- R231: the three decimal digits, hundreds lowest, or the error with nothing written. `I` unchanged and nothing
written on the error are the spec's decisions D18, D15 (log entry 22). -/
def Obligations.BcdDigitsStored : Prop :=
  ∀ (x : Reg) (s : State), s.ramOk →
    (s.i.toNat + 2 ≤ 0x0FFF → ∃ t, exec (.ldBVx x) s = .next t ∧
      (t.ram.read s.i.toNat).toNat = (s.getV x).toNat / 100 ∧
      (t.ram.read (s.i.toNat + 1)).toNat = (s.getV x).toNat / 10 % 10 ∧
      (t.ram.read (s.i.toNat + 2)).toNat = (s.getV x).toNat % 10 ∧ t.i = s.i ∧ t.v = s.v ∧ advances s t) ∧
    (0x0FFF < s.i.toNat + 2 →
      exec (.ldBVx x) s = .next (erred s .outOfBoundsAccess (BitVec.ofNat 16 (max s.i.toNat 0x1000))))

/-- R233: V0 to Vx to RAM from `I` on, in index order, or the error with nothing written. `I` unchanged and nothing
written on the error are the spec's decisions D18, D15 (log entry 22). -/
def Obligations.RegisterDumpStores : Prop :=
  ∀ (x : Reg) (s : State), s.ramOk →
    (s.i.toNat + x.val ≤ 0x0FFF → ∃ t, exec (.ldMemVx x) s = .next t ∧
      (∀ r : Reg, r ≤ x → t.ram.read (s.i.toNat + r.val) = s.getV r) ∧ t.i = s.i ∧ t.v = s.v ∧ advances s t) ∧
    (0x0FFF < s.i.toNat + x.val →
      exec (.ldMemVx x) s = .next (erred s .outOfBoundsAccess (BitVec.ofNat 16 (max s.i.toNat 0x1000))))

/-- R235: RAM from `I` on to V0 to Vx, registers above x unchanged, or the error with nothing written. `I` unchanged
and nothing written on the error are the spec's decisions D18, D15 (log entry 22). -/
def Obligations.RegisterLoadReads : Prop :=
  ∀ (x : Reg) (s : State),
    (s.i.toNat + x.val ≤ 0x0FFF → ∃ t, exec (.ldVxMem x) s = .next t ∧
      (∀ r : Reg, t.getV r = if r ≤ x then s.ram.read (s.i.toNat + r.val) else s.getV r) ∧ t.i = s.i ∧
      t.ram = s.ram ∧ advances s t) ∧
    (0x0FFF < s.i.toNat + x.val →
      exec (.ldVxMem x) s = .next (erred s .outOfBoundsAccess (BitVec.ofNat 16 (max s.i.toNat 0x1000))))

/-- R233, R235, R236: a dump followed by a load of the same registers from the same `I` gives the registers back, even if
they were changed in between. -/
def Obligations.LoadUndoesDump : Prop :=
  ∀ (x : Reg) (s t u : State), s.ramOk → s.i.toNat + x.val ≤ 0x0FFF → exec (.ldMemVx x) s = .next t →
    u.ram = t.ram → u.i = s.i →
    ∃ r, exec (.ldVxMem x) u = .next r ∧ ∀ q : Reg, q ≤ x → r.getV q = s.getV q

/-! ### Frames: what each family leaves unchanged (10_state.md R20, R22) -/

/-- RET, JP, CALL, JP V0, SE and SNE in both forms: only the stack (CALL, RET), `PC`, the outputs and, on an error,
`HALT`. -/
def Obligations.ControlFlowFrame : Prop :=
  ∀ (i : Instr) (s t : State), familyOf i = .control → exec i s = .next t → Frame i s t

/-- The twelve instructions of 41_alu.md: only the registers of R22's column "writes", `PC` and the outputs. That a
shift never writes V[y] is the spec's decision D9 (log entry 19). -/
def Obligations.AluFrame : Prop :=
  ∀ (i : Instr) (s t : State), familyOf i = .alu → exec i s = .next t → Frame i s t

/-- CLS and DRW: only the framebuffer, `DIRTY`, VF (DRW), `PC`, the outputs and, on an error, `HALT`. That DRW leaves
`I` is the spec's decision D18 (R25, log entry 22). -/
def Obligations.DisplayFrame : Prop :=
  ∀ (i : Instr) (s t : State), familyOf i = .display → exec i s = .next t → Frame i s t

/-- SKP, SKNP, LD Vx,K: only V[x], `LATCH` and `MODE` (LD Vx,K), `PC`, the outputs and, on an error, `HALT`; never
`KEY` (R205). The error of SKP and SKNP is the spec's decision D16, the latch's life D19 (log entry 21). -/
def Obligations.KeypadFrame : Prop :=
  ∀ (i : Instr) (s t : State), familyOf i = .keypad → exec i s = .next t → Frame i s t

/-- The nine instructions of 44_timer_index_memory.md: each only the elements R20 lists it under; every byte of RAM
outside the ones stored to, from `I` on, reads as before. That LD B, LD [I] and LD Vx,[I] leave `I` is the spec's
decision D18 (R25, log entry 22), that ADD I leaves VF its decision D31 (log entry 19). -/
def Obligations.TimerIndexMemoryFrame : Prop :=
  ∀ (i : Instr) (s t : State), familyOf i = .timerIndexMemory → exec i s = .next t → Frame i s t

/-! ### The timer and the host (60_exceptions.md, 70_reset_and_hazards.md) -/

/-- R271: one `Tick`: both counters clamp at zero, each from its own old value, and nothing else changes; nothing at
all while halted. A timer holding v that is not rewritten reaches zero after exactly v ticks: after k ticks it holds v
− k, and zero from then on. That a halted core does not tick is the spec's decision D27 (log entry 15). -/
def Obligations.TickCountsDown : Prop :=
  (∀ s : State, ∃ t, act .tick s = .next t ∧
    (s.halt ≠ none → t = s) ∧
    (s.halt = none → t.dt.toNat = s.dt.toNat - 1 ∧ t.st.toNat = s.st.toNat - 1 ∧
      t = { s with dt := t.dt, st := t.st })) ∧
  (∀ (k : Nat) (s : State), s.halt = none →
    ((State.tick^[k]) s).dt.toNat = s.dt.toNat - k ∧ ((State.tick^[k]) s).st.toNat = s.st.toNat - k)

/-- R273: one rising edge of `clk`, for whatever multiple of 60 `CLK_HZ` is. The divider is the spec's decision D2,
`CLK_HZ` a free value (log entries 4, 9). -/
def Obligations.ClockEdgeDivides : Prop :=
  ∀ s : State,
    (s.div = clkHz / 60 - 1 → act .clk s = act .tick { s with div := 0 }) ∧
    (s.div ≠ clkHz / 60 - 1 → act .clk s = .next { s with div := s.div + 1 })

/-- R271, R273: from a divider in range, as many edges as are left to the wrap, and one more, make exactly one `Tick`.
The divider is the spec's decision D2, `CLK_HZ` a free value (log entries 4, 9). -/
def Obligations.DividerTicksOncePerPeriod : Prop :=
  ∀ s : State, s.divOk →
    (State.clkEdge^[clkHz / 60 - s.div]) s = State.tick { s with div := 0 }

/-- R280, R281, R283: the host's three small actions, whatever the mode and even while halted. `FbAck` is the spec's
decision D26 (log entry 24). -/
def Obligations.HostActionsWriteTheirPorts : Prop :=
  ∀ (s : State) (k : Key),
    (∃ t, act (.keyPress k) s = .next t ∧ t.latch = some k ∧
      (∀ j : Key, t.key.get j = if j = k then true else s.key.get j) ∧
      t = { s with key := t.key, latch := t.latch }) ∧
    (∃ t, act (.keyRelease k) s = .next t ∧
      (∀ j : Key, t.key.get j = if j = k then false else s.key.get j) ∧ t = { s with key := t.key }) ∧
    act .fbAck s = .next { s with dirty := false }

/-- R290, R291: `Reset(ROM)` replaces the whole state, whatever it was. The bytes outside font and ROM are the launch
contents given with the action (D24: any bytes; log entry 27). A longer ROM is refused by name (R64; log entry 14).
That the model's own draw counter and agenda go on, and that the outputs are empty, are the model's choices (log
entries 25, 7). Several values are the spec's decisions D23, D24 (log entry 11). -/
def Obligations.ResetLoadsFontAndRom : Prop :=
  ∀ (s : State) (rom : List Byte) (launch : List Host.Cell),
    (3584 < rom.length → act (.reset rom launch) s = .refused .romTooLong) ∧
    (rom.length ≤ 3584 → ∃ t, act (.reset rom launch) s = .next t ∧
      (∀ r, t.getV r = 0) ∧ t.i = 0 ∧ t.pc = 0x200 ∧ t.sp = 0 ∧ t.dt = 0 ∧ t.st = 0 ∧ t.div = 0 ∧
      t.fbOk ∧ (∀ row < s.cfg.fbH, ∀ col < s.cfg.fbW, t.fb.cell row col = false) ∧ t.dirty = false ∧
      (∀ k, t.key.get k = false) ∧ t.latch = none ∧ t.mode = .running ∧ t.halt = none ∧ t.cfg = s.cfg ∧
      t.effect = none ∧ t.unknownEvent = none ∧ t.draws = s.draws ∧ t.agenda = s.agenda ∧
      (∀ j (h : j < s.cfg.font.length), t.ram.read j = s.cfg.font[j]) ∧
      (∀ j (h : j < rom.length), t.ram.read (0x200 + j) = rom[j]) ∧
      (∀ a, 80 ≤ a → (a < 0x200 ∨ 0x200 + rom.length ≤ a) → t.ram.read a = (Memory.ofCells launch).read a))

/-- R291 for the reset state itself, whose ROM is empty: every element whose value the rule gives, the parameters at
the defaults of R6, the 80 font bytes of R66 among them, and these at 0x000. Several values are the spec's decisions
D23 and D27, the defaults its D3, D4, D9 to D11, D13, D19, the font bytes its general knowledge G3 (log entries 1, 11,
12, 16). -/
def Obligations.ResetStateValues : Prop :=
  (∀ r, State.reset.getV r = 0) ∧ State.reset.i = 0 ∧ State.reset.pc = 0x200 ∧ State.reset.sp = 0 ∧
    State.reset.dt = 0 ∧ State.reset.st = 0 ∧ State.reset.div = 0 ∧
    State.reset.fbOk ∧ (∀ row < 32, ∀ col < 64, State.reset.fb.cell row col = false) ∧ State.reset.dirty = false ∧
    (∀ k, State.reset.key.get k = false) ∧ State.reset.latch = none ∧ State.reset.mode = .running ∧
    State.reset.halt = none ∧
    State.reset.cfg.stackDepth = 16 ∧ State.reset.cfg.fbW = 64 ∧ State.reset.cfg.fbH = 32 ∧
    State.reset.cfg.shiftSrcY = false ∧ State.reset.cfg.logicResetVF = false ∧
    State.reset.cfg.jumpOffsetVX = false ∧ State.reset.cfg.armClearsLatch = false ∧
    State.reset.cfg.unknownFatal = true ∧
    State.reset.cfg.font =
      [0xF0, 0x90, 0x90, 0x90, 0xF0] ++ [0x20, 0x60, 0x20, 0x20, 0x70] ++ [0xF0, 0x10, 0xF0, 0x80, 0xF0] ++
      [0xF0, 0x10, 0xF0, 0x10, 0xF0] ++ [0x90, 0x90, 0xF0, 0x10, 0x10] ++ [0xF0, 0x80, 0xF0, 0x10, 0xF0] ++
      [0xF0, 0x80, 0xF0, 0x90, 0xF0] ++ [0xF0, 0x10, 0x20, 0x40, 0x40] ++ [0xF0, 0x90, 0xF0, 0x90, 0xF0] ++
      [0xF0, 0x90, 0xF0, 0x10, 0xF0] ++ [0xF0, 0x90, 0xF0, 0x90, 0x90] ++ [0xE0, 0x90, 0xE0, 0x90, 0xE0] ++
      [0xF0, 0x80, 0x80, 0x80, 0xF0] ++ [0xE0, 0x90, 0x90, 0x90, 0xE0] ++ [0xF0, 0x80, 0xF0, 0x80, 0xF0] ++
      [0xF0, 0x80, 0xF0, 0x80, 0x80] ∧
    (∀ j (h : j < State.reset.cfg.font.length), State.reset.ram.read j = State.reset.cfg.font[j])

/-! ### Rules about the whole machine -/

/-- The invariant holds at reset (10_state.md R20, R27, R29, R31, R33; 43_keypad.md R204). Its clause on the slots
covers the dead ones too, whose contents R29 and R291 leave unspecified: at reset it rests on the model's choice of
0x0000 (log entry 10). -/
def Obligations.ResetMeetsInvariant : Prop := State.reset.Inv

/-- Every action of every agent keeps the invariant: canonical RAM, the stack's bounds, return addresses at most
0x1000, `PC` at most 0x10FE (R27), the framebuffer's shape, the divider's range, and that a wait stands on its `LD
Vx,K` (R204). The clause on the slots covers the dead ones too: across a `Reset` it rests on the model's choice of
0x0000, where R291 says unspecified (log entry 10). -/
def Obligations.EveryStepKeepsInvariant : Prop :=
  ∀ s t : State, s.Inv → step s = .next t → t.Inv

/-- In a state that meets the invariant the machine never stops without a next state, but for a `Reset` with a ROM the
spec refuses (R64): no step faults, and no instruction is refused. The refusal and the fault are the model's own (log
entries 13, 14). -/
def Obligations.InvariantStepsAnswerNext : Prop :=
  ∀ s : State, s.Inv → (∃ t, step s = .next t) ∨
    (∃ rom launch rest, s.agenda = Action.reset rom launch :: rest ∧ 3584 < rom.length ∧
      step s = .refused .romTooLong)

/-- R7: no instruction, tick or host action changes the configuration. The parameters stand in State by the model's
choice (log entry 1). -/
def Obligations.ConfigurationNeverChanges : Prop :=
  ∀ s t : State, step s = .next t → t.cfg = s.cfg

/-- R186: no one writes the framebuffer but `CLS`, `DRW` and reset. -/
def Obligations.FramebufferWriters : Prop :=
  ∀ s t : State, step s = .next t → t.fb ≠ s.fb →
    (∃ rom launch rest, s.agenda = Action.reset rom launch :: rest) ∨
    (∃ w, s.fetch = .ok w ∧ (decode w = .ok .cls ∨ ∃ x y n, decode w = .ok (.drw x y n)))

/-- R72, R74: nothing but `LD B,Vx`, `LD [I],Vx` and reset ever changes RAM. -/
def Obligations.RamWriters : Prop :=
  ∀ (s t : State) (a : Nat), step s = .next t → t.ram.read a ≠ s.ram.read a →
    (∃ rom launch rest, s.agenda = Action.reset rom launch :: rest) ∨
    (∃ w x, s.fetch = .ok w ∧
      ((decode w = .ok (.ldBVx x) ∧ s.i.toNat ≤ a ∧ a ≤ s.i.toNat + 2) ∨
       (decode w = .ok (.ldMemVx x) ∧ s.i.toNat ≤ a ∧ a ≤ s.i.toNat + x.val)))

/-- R30: the timers have no other writers than `LD DT,Vx`, `LD ST,Vx`, `Tick` (which a clock edge performs) and reset. -/
def Obligations.TimerWriters : Prop :=
  ∀ s t : State, step s = .next t → t.dt ≠ s.dt ∨ t.st ≠ s.st →
    (∃ a rest, s.agenda = a :: rest ∧ (a = .tick ∨ a = .clk ∨ ∃ rom launch, a = Action.reset rom launch)) ∨
    (∃ w x, s.fetch = .ok w ∧
      ((decode w = .ok (.ldDtVx x) ∧ t.dt = s.getV x ∧ t.st = s.st) ∨
       (decode w = .ok (.ldStVx x) ∧ t.st = s.getV x ∧ t.dt = s.dt)))

/-- R39, R202, R287: `PC` does not advance while waiting. A step that leaves the engine AwaitingKey reported Wait and
left `PC` where it was, unless another agent acted. That each poll fetches is the spec's decision D30 (log entry 21).
-/
def Obligations.WaitingLeavesPc : Prop :=
  ∀ s t : State, s.agenda = [] → s.halt = none → s.waitOk → step s = .next t → t.mode = .awaitingKey →
    t.pc = s.pc ∧ t.effect = some .wait

/-- R78, R301: a store is seen by the next fetch: after `LD [I],Vx` with x at least 1 over the next instruction's two
bytes, the next word fetched is made of V0 and V1. -/
def Obligations.StoredCodeIsFetched : Prop :=
  ∀ (x : Reg) (s t : State), s.ramOk → s.pc.toNat + 4 ≤ 0x1000 → s.i = s.pc + 2 → 1 ≤ x.val →
    s.i.toNat + x.val ≤ 0x0FFF → exec (.ldMemVx x) s = .next t →
    t.fetch = .ok (s.getV 0 ++ s.getV 1)

/-- R299: at the end of a run (a jump to itself) a step leaves the whole machine unchanged, and the run is still
ended. What the end of a run is, is the spec's own definition (R299, D27). -/
def Obligations.EndedRunStaysEnded : Prop :=
  ∀ s : State, s.ended = true → s.agenda = [] →
    ∃ t, step s = .next t ∧ t.architectural = s.architectural ∧ t.ended = true
end

