-- ==== Sys2Proof/Laws/Decode.lean ====
section
/-! SUPPORT. The fields of a packed word are the nibbles packed, and the fields of an immediate put it together again. -/

namespace Sys2Proof

@[simp] theorem fieldOp_pack (op x y n : Nibble) : fieldOp (packNibbles op x y n) = op := by
  unfold fieldOp packNibbles; ext i hi; simp; grind

@[simp] theorem fieldX_pack (op x y n : Nibble) : fieldX (packNibbles op x y n) = x := by
  unfold fieldX packNibbles; ext i hi; simp; grind

@[simp] theorem fieldY_pack (op x y n : Nibble) : fieldY (packNibbles op x y n) = y := by
  unfold fieldY packNibbles; ext i hi; simp; grind

@[simp] theorem fieldN_pack (op x y n : Nibble) : fieldN (packNibbles op x y n) = n := by
  unfold fieldN packNibbles; ext i hi; simp; grind

/-- Decoding packed nibbles is classifying them. -/
@[simp] theorem decode_pack (op x y n : Nibble) : decode (packNibbles op x y n) = classify op x y n := by
  simp [decode]

/-- Every word is its four nibbles packed. -/
theorem pack_fields (w : Word) : packNibbles (fieldOp w) (fieldX w) (fieldY w) (fieldN w) = w := by
  unfold packNibbles fieldOp fieldX fieldY fieldN; ext i hi; simp; grind

/-- Two bytes make the word they are the bytes of. -/
@[simp] theorem wordOfBytes_bytes (w : Word) : wordOfBytes (hiByte w) (loByte w) = w := by
  unfold wordOfBytes hiByte loByte; ext i hi; simp; grind

@[simp] theorem hiByte_word (hi lo : Byte) : hiByte (wordOfBytes hi lo) = hi := by
  unfold wordOfBytes hiByte; ext i h; simp; grind

@[simp] theorem loByte_word (hi lo : Byte) : loByte (wordOfBytes hi lo) = lo := by
  unfold wordOfBytes loByte; ext i h; simp; grind

@[simp] theorem toReg_ofReg (r : Reg) : toReg (ofReg r) = r := rfl

@[simp] theorem ofReg_toReg (f : Nibble) : ofReg (toReg f) = f := rfl

/-! ### The nibbles of an immediate -/

/-- A byte is its two nibbles (30_encoding.md R91: `nn` = `y` ++ `n`). -/
@[simp] theorem fieldNN_split (nn : Byte) : fieldNN (nn.extractLsb' 4 4) (nn.extractLsb' 0 4) = nn := by
  unfold fieldNN; ext i hi; simp; grind

/-- An address is its three nibbles (30_encoding.md R91: `nnn` = `x` ++ `y` ++ `n`). -/
@[simp] theorem fieldNNN_split (nnn : Addr12) :
    fieldNNN (nnn.extractLsb' 8 4) (nnn.extractLsb' 4 4) (nnn.extractLsb' 0 4) = nnn := by
  unfold fieldNNN; ext i hi; simp; grind

@[simp] theorem fieldNN_hi (y n : Nibble) : (fieldNN y n).extractLsb' 4 4 = y := by
  unfold fieldNN; ext i hi; simp; grind

@[simp] theorem fieldNN_lo (y n : Nibble) : (fieldNN y n).extractLsb' 0 4 = n := by
  unfold fieldNN; ext i hi; simp; grind

@[simp] theorem fieldNNN_hi (x y n : Nibble) : (fieldNNN x y n).extractLsb' 8 4 = x := by
  unfold fieldNNN; ext i hi; simp; grind

@[simp] theorem fieldNNN_mid (x y n : Nibble) : (fieldNNN x y n).extractLsb' 4 4 = y := by
  unfold fieldNNN; ext i hi; simp; grind

@[simp] theorem fieldNNN_lo (x y n : Nibble) : (fieldNNN x y n).extractLsb' 0 4 = n := by
  unfold fieldNNN; ext i hi; simp; grind

/-- A low byte of known value fixes its two nibbles. -/
theorem fieldNN_toNat_eq (y n : Nibble) (k : Nat) (h : (fieldNN y n).toNat = k) :
    y = (BitVec.ofNat 8 k).extractLsb' 4 4 ∧ n = (BitVec.ofNat 8 k).extractLsb' 0 4 := by
  subst h; simp

end Sys2Proof
end

