-- ==== Sys2Proof/Laws/Framebuffer.lean ====
section
/-! SUPPORT. Framebuffer cells: what a flip changes, and that flips keep the shape. -/

namespace Sys2Proof.Machine

/-- `FB_H` rows of `FB_W` cells (10_state.md R33). -/
abbrev Framebuffer.shaped (c : Config) (fb : Framebuffer) : Prop :=
  fb.length = c.fbH ∧ ∀ row ∈ fb, row.length = c.fbW

/-- A flip leaves every other cell alone. -/
theorem Framebuffer.cell_flip_ne (fb : Framebuffer) (r c r' c' : Nat) (h : (r', c') ≠ (r, c)) :
    (fb.flip r c).cell r' c' = fb.cell r' c' := by
  simp only [Framebuffer.cell, Framebuffer.flip, List.getD_eq_getElem?_getD, List.getElem?_modify]
  split
  · subst r'
    have hc : c ≠ c' := fun e => h (by simp [e])
    cases fb[r]? <;> simp [hc]
  · simp

/-- A cell of a shaped framebuffer flips. -/
theorem Framebuffer.cell_flip_self (cf : Config) (fb : Framebuffer) (r c : Nat) (hs : fb.shaped cf) (hr : r < cf.fbH)
    (hc : c < cf.fbW) : (fb.flip r c).cell r c = !fb.cell r c := by
  obtain ⟨hl, hw⟩ := hs
  have hr' : r < fb.length := by omega
  have hc' : c < (fb[r]).length := by rw [hw _ (List.getElem_mem hr')]; exact hc
  simp [Framebuffer.cell, Framebuffer.flip, hr', hc']

/-- A flip keeps the shape. -/
theorem Framebuffer.flip_shaped (cf : Config) (fb : Framebuffer) (r c : Nat) (hs : fb.shaped cf) :
    (fb.flip r c).shaped cf := by
  obtain ⟨hl, hw⟩ := hs
  refine ⟨by simpa [Framebuffer.flip] using hl, fun row hrow => ?_⟩
  obtain ⟨j, hj, rfl⟩ := List.getElem_of_mem hrow
  simp only [Framebuffer.flip, List.length_modify] at hj
  simp only [Framebuffer.flip, List.getElem_modify]
  split
  · rw [List.length_modify]; exact hw _ (List.getElem_mem hj)
  · exact hw _ (List.getElem_mem hj)

/-- Drawing pixels keeps the shape. -/
theorem foldl_drawPixel_shaped (cf : Config) (cells : List (Nat × Nat)) (p : Framebuffer × Bool)
    (hs : p.1.shaped cf) : (cells.foldl drawPixel p).1.shaped cf := by
  induction cells generalizing p with
  | nil => exact hs
  | cons c cells ih => exact ih _ (Framebuffer.flip_shaped cf _ _ _ hs)

/-- A draw keeps the shape. -/
theorem drawCells_shaped (cf : Config) (fb : Framebuffer) (cells : List (Nat × Nat)) (hs : fb.shaped cf) :
    (drawCells fb cells).1.shaped cf := foldl_drawPixel_shaped cf cells _ hs

/-- The cleared framebuffer has the shape. -/
theorem Framebuffer.clear_shaped (cf : Config) : (Framebuffer.clear cf).shaped cf := by
  simp +contextual [Framebuffer.clear, Framebuffer.shaped, List.mem_replicate]

/-! ### What a draw does to the cells -/

/-- Shaped framebuffers that agree on every cell are the same. -/
theorem Framebuffer.ext_cells (cf : Config) (a b : Framebuffer) (ha : a.shaped cf) (hb : b.shaped cf)
    (h : ∀ r c, a.cell r c = b.cell r c) : a = b := by
  apply List.ext_getElem (ha.1.trans hb.1.symm)
  intro r h1 h2
  apply List.ext_getElem ((ha.2 _ (List.getElem_mem h1)).trans (hb.2 _ (List.getElem_mem h2)).symm)
  intro c h3 h4
  simpa [Framebuffer.cell, h1, h2, h3, h4] using h r c

/-- The cells a sprite targets, pixel by pixel (42_display.md R182). -/
theorem mem_spriteCells (c : Config) (ram : Memory) (base px py n row col : Nat) :
    (row, col) ∈ spriteCells c ram base px py n ↔
      ∃ k j, k < n ∧ j < 8 ∧ (ram.read (base + k)).getLsbD (7 - j) = true ∧
        row = (py + k) % c.fbH ∧ col = (px + j) % c.fbW := by
  simp only [spriteCells, spriteRowCells, List.mem_flatMap, List.mem_map, List.mem_filter, List.mem_range,
    Prod.mk.injEq]
  constructor
  · rintro ⟨k, hk, j, ⟨hj, hb⟩, h1, h2⟩
    exact ⟨k, j, hk, hj, hb, h1.symm, h2.symm⟩
  · rintro ⟨k, j, hk, hj, hb, h1, h2⟩
    exact ⟨k, hk, j, ⟨hj, hb⟩, h1.symm, h2.symm⟩

/-- Drawing pixels on cells that are all different and inside the framebuffer: those cells flip, and the hit bit says
whether any of them was lit before. -/
theorem foldl_drawPixel_spec (cf : Config) (cells : List (Nat × Nat)) (hn : cells.Nodup)
    (hin : ∀ p ∈ cells, p.1 < cf.fbH ∧ p.2 < cf.fbW) (fb : Framebuffer) (hit : Bool) (hs : fb.shaped cf) :
    (∀ r c, (cells.foldl drawPixel (fb, hit)).1.cell r c = if (r, c) ∈ cells then !fb.cell r c else fb.cell r c) ∧
      ((cells.foldl drawPixel (fb, hit)).2 = true ↔ hit = true ∨ ∃ p ∈ cells, fb.cell p.1 p.2 = true) := by
  induction cells generalizing fb hit with
  | nil => simp
  | cons p cells ih =>
    obtain ⟨hp, hn'⟩ := List.nodup_cons.mp hn
    have hi := hin p (by simp)
    obtain ⟨h1, h2⟩ := ih hn' (fun q hq => hin q (by simp [hq])) (fb.flip p.1 p.2) (hit || fb.cell p.1 p.2)
      (Framebuffer.flip_shaped cf _ _ _ hs)
    simp only [List.foldl_cons, drawPixel]
    refine ⟨fun r c => ?_, ?_⟩
    · rw [h1]
      by_cases e : (r, c) = p
      · subst e
        simp [hp, Framebuffer.cell_flip_self cf fb r c hs hi.1 hi.2]
      · rw [Framebuffer.cell_flip_ne _ _ _ _ _ (by simpa using e)]
        simp [e]
    · rw [h2]
      have : (∃ q ∈ cells, (fb.flip p.1 p.2).cell q.1 q.2 = true) ↔ ∃ q ∈ cells, fb.cell q.1 q.2 = true := by
        refine exists_congr fun q => and_congr_right fun hq => ?_
        have : q ≠ p := fun e => hp (e ▸ hq)
        rw [Framebuffer.cell_flip_ne _ _ _ _ _ (by simpa using this)]
      rw [this]; simp [or_assoc]

end Sys2Proof.Machine
end

