-- ==== Sys2Proof/Laws/Memory.lean ====
section
/-! SUPPORT. RAM: read after write, frames of the write operations, and that each keeps the canonical form
`Memory.wf`. -/

namespace Sys2Proof.Machine

/-! ### One write -/

/-- A write leaves every other address alone. -/
theorem Memory.read_write_ne (m : Memory) (a b : Nat) (x : Byte) (h : b ≠ a) :
    (m.write a x).read b = m.read b := by
  induction m with
  | nil => unfold Memory.write; split <;> simp [Memory.read, h.symm]
  | cons c m ih =>
    obtain ⟨d, u⟩ := c
    unfold Memory.write
    split
    · split <;> simp [Memory.read, h.symm]
    · split
      · subst a; split <;> simp [Memory.read, h.symm]
      · simp [Memory.read, ih]

/-- An address below every listed one reads as the reset contents. -/
theorem Memory.read_of_lt (m : Memory) (a : Nat) (h : ∀ c ∈ m, a < c.1) : m.read a = initByte a := by
  induction m with
  | nil => rfl
  | cons c m ih =>
    obtain ⟨d, u⟩ := c
    have hd := h (d, u) (by simp)
    simp only [Memory.read, (Nat.ne_of_lt hd).symm, if_false]
    exact ih fun c hc => h c (by simp [hc])

/-- A canonical memory reads back what was written. -/
theorem Memory.read_write_self (m : Memory) (a : Nat) (x : Byte) (h : m.wf) : (m.write a x).read a = x := by
  induction m with
  | nil => unfold Memory.write; split <;> simp_all [Memory.read]
  | cons c m ih =>
    obtain ⟨d, u⟩ := c
    obtain ⟨hs, hc⟩ := h
    obtain ⟨hlt, hs'⟩ := List.pairwise_cons.mp hs
    unfold Memory.write
    split
    · split
      · subst x
        refine Memory.read_of_lt _ _ fun c hc' => ?_
        rcases List.mem_cons.mp hc' with rfl | hc'
        · assumption
        · exact Nat.lt_trans ‹_› (hlt c hc')
      · simp [Memory.read]
    · split
      · subst a
        split
        · subst x; exact Memory.read_of_lt _ _ hlt
        · simp [Memory.read]
      · have : d ≠ a := fun e => by omega
        simp only [Memory.read, this, if_false]
        exact ih ⟨hs', fun c hm => hc c (by simp [hm])⟩

/-- Reading after a write to a canonical memory. -/
theorem Memory.read_write (m : Memory) (a b : Nat) (x : Byte) (h : m.wf) :
    (m.write a x).read b = if b = a then x else m.read b := by
  split
  · subst b; exact m.read_write_self a x h
  · exact m.read_write_ne a b x ‹_›

/-- A cell of a memory after a write is the one written or an old one. -/
theorem Memory.mem_write (m : Memory) (a : Nat) (x : Byte) (c : Host.Cell) (h : c ∈ m.write a x) :
    (c = (a, x) ∧ x ≠ initByte a) ∨ c ∈ m := by
  induction m with
  | nil => unfold Memory.write at h; split at h <;> simp_all
  | cons d m ih =>
    obtain ⟨d, u⟩ := d
    unfold Memory.write at h
    split at h
    · split at h <;> simp_all
    · split at h
      · split at h <;> simp_all; tauto
      · rcases List.mem_cons.mp h with rfl | h
        · simp
        · rcases ih h with h | h <;> simp [h]

/-- A write inside RAM keeps the canonical form. -/
theorem Memory.write_wf (m : Memory) (a : Nat) (x : Byte) (ha : a < ramSize) (h : m.wf) : (m.write a x).wf := by
  refine ⟨?_, fun c hc => ?_⟩
  · obtain ⟨hs, -⟩ := h
    induction m with
    | nil => unfold Memory.write; split <;> simp
    | cons d m ih =>
      obtain ⟨d, u⟩ := d
      obtain ⟨hlt, hs'⟩ := List.pairwise_cons.mp hs
      unfold Memory.write
      split
      · split
        · exact hs
        · refine List.pairwise_cons.mpr ⟨fun c hc => ?_, hs⟩
          rcases List.mem_cons.mp hc with rfl | hc
          · assumption
          · exact Nat.lt_trans ‹_› (hlt c hc)
      · split
        · subst a
          split
          · exact hs'
          · exact List.pairwise_cons.mpr ⟨hlt, hs'⟩
        · refine List.pairwise_cons.mpr ⟨fun c hc => ?_, ih hs'⟩
          rcases Memory.mem_write m a x c hc with ⟨rfl, -⟩ | hc
          · show d < a; omega
          · exact hlt c hc
  · rcases Memory.mem_write m a x c hc with ⟨rfl, hx⟩ | hc
    · exact ⟨ha, hx⟩
    · exact h.2 c hc

/-! ### Several writes -/

/-- Writing bytes from `a` on leaves every address outside alone. -/
theorem Memory.read_writeBytes_out (m : Memory) (a : Nat) (xs : List Byte) (b : Nat)
    (h : b < a ∨ a + xs.length ≤ b) : (m.writeBytes a xs).read b = m.read b := by
  induction xs generalizing m a with
  | nil => rfl
  | cons x xs ih =>
    simp only [List.length_cons] at h
    unfold Memory.writeBytes
    rw [ih _ _ (by omega), Memory.read_write_ne _ _ _ _ (by omega)]

/-- Writing bytes inside RAM keeps the canonical form. -/
theorem Memory.writeBytes_wf (m : Memory) (a : Nat) (xs : List Byte) (ha : a + xs.length ≤ ramSize) (h : m.wf) :
    (m.writeBytes a xs).wf := by
  induction xs generalizing m a with
  | nil => exact h
  | cons x xs ih =>
    simp only [List.length_cons] at ha
    exact ih _ _ (by omega) (m.write_wf a x (by omega) h)

/-- Writing bytes inside RAM: the j-th lands at `a + j`. -/
theorem Memory.read_writeBytes_in (m : Memory) (a : Nat) (xs : List Byte) (j : Nat) (hj : j < xs.length)
    (ha : a + xs.length ≤ ramSize) (h : m.wf) : (m.writeBytes a xs).read (a + j) = xs[j] := by
  induction xs generalizing m a j with
  | nil => simp at hj
  | cons x xs ih =>
    simp only [List.length_cons] at ha hj
    unfold Memory.writeBytes
    cases j with
    | zero =>
      rw [Memory.read_writeBytes_out _ _ _ _ (Or.inl (by omega)), Nat.add_zero, Memory.read_write_self _ _ _ h]
      rfl
    | succ j =>
      have := ih (m.write a x) (a + 1) j (by omega) (by omega) (m.write_wf a x (by omega) h)
      rw [show a + (j + 1) = a + 1 + j by omega, this]
      rfl

/-- The empty memory, which is that of the reset state, is canonical. -/
theorem Memory.nil_wf : Memory.wf [] := by simp [Memory.wf]

/-- RAM made of any cells is canonical. -/
theorem Memory.ofCells_wf (cells : List Host.Cell) : (Memory.ofCells cells).wf := by
  unfold Memory.ofCells
  have hf : ∀ c ∈ cells.filter fun c => c.1 < ramSize, c.1 < ramSize := by
    intro c hc; simpa using (List.mem_filter.mp hc).2
  generalize cells.filter (fun c => c.1 < ramSize) = l at hf
  suffices ∀ m : Memory, m.wf → (l.foldl (fun m c => Memory.write m c.1 c.2) m).wf from this _ Memory.nil_wf
  induction l with
  | nil => exact fun m h => h
  | cons c l ih =>
    exact fun m h => ih (fun d hd => hf d (by simp [hd])) _ (m.write_wf _ _ (hf c (by simp)) h)

/-- RAM after a reset with a ROM that fits is canonical: the font is 80 bytes by its type. -/
theorem bootRam_wf (c : Config) (rom : List Byte) (launch : List Host.Cell) (hr : rom.length ≤ maxRomLen) :
    (bootRam c rom launch).wf := by
  have hf := c.font_length
  unfold bootRam
  have e1 : fontBase + fontLen ≤ ramSize := by decide
  have e2 : progBase + maxRomLen = ramSize := by decide
  exact Memory.writeBytes_wf _ _ _ (by omega) (Memory.writeBytes_wf _ _ _ (by omega) (Memory.ofCells_wf launch))

end Sys2Proof.Machine
end

