-- ==== Sys2Proof/Laws/State.lean ====
section
/-! SUPPORT. What each update of State does to each field, once, by rfl; and the read-after-write laws of the data
registers. -/

namespace Sys2Proof.Machine

/-! ### `State.setV` -/

@[simp] theorem State.setV_cfg (s : State) (x : Reg) (b : Byte) : (s.setV x b).cfg = s.cfg := rfl
@[simp] theorem State.setV_v (s : State) (x : Reg) (b : Byte) : (s.setV x b).v = s.v.set x b := rfl
@[simp] theorem State.setV_i (s : State) (x : Reg) (b : Byte) : (s.setV x b).i = s.i := rfl
@[simp] theorem State.setV_pc (s : State) (x : Reg) (b : Byte) : (s.setV x b).pc = s.pc := rfl
@[simp] theorem State.setV_stack (s : State) (x : Reg) (b : Byte) : (s.setV x b).stack = s.stack := rfl
@[simp] theorem State.setV_sp (s : State) (x : Reg) (b : Byte) : (s.setV x b).sp = s.sp := rfl
@[simp] theorem State.setV_dt (s : State) (x : Reg) (b : Byte) : (s.setV x b).dt = s.dt := rfl
@[simp] theorem State.setV_st (s : State) (x : Reg) (b : Byte) : (s.setV x b).st = s.st := rfl
@[simp] theorem State.setV_div (s : State) (x : Reg) (b : Byte) : (s.setV x b).div = s.div := rfl
@[simp] theorem State.setV_ram (s : State) (x : Reg) (b : Byte) : (s.setV x b).ram = s.ram := rfl
@[simp] theorem State.setV_fb (s : State) (x : Reg) (b : Byte) : (s.setV x b).fb = s.fb := rfl
@[simp] theorem State.setV_dirty (s : State) (x : Reg) (b : Byte) : (s.setV x b).dirty = s.dirty := rfl
@[simp] theorem State.setV_key (s : State) (x : Reg) (b : Byte) : (s.setV x b).key = s.key := rfl
@[simp] theorem State.setV_latch (s : State) (x : Reg) (b : Byte) : (s.setV x b).latch = s.latch := rfl
@[simp] theorem State.setV_mode (s : State) (x : Reg) (b : Byte) : (s.setV x b).mode = s.mode := rfl
@[simp] theorem State.setV_halt (s : State) (x : Reg) (b : Byte) : (s.setV x b).halt = s.halt := rfl
@[simp] theorem State.setV_effect (s : State) (x : Reg) (b : Byte) : (s.setV x b).effect = s.effect := rfl
@[simp] theorem State.setV_unknownEvent (s : State) (x : Reg) (b : Byte) : (s.setV x b).unknownEvent = s.unknownEvent := rfl
@[simp] theorem State.setV_draws (s : State) (x : Reg) (b : Byte) : (s.setV x b).draws = s.draws := rfl
@[simp] theorem State.setV_agenda (s : State) (x : Reg) (b : Byte) : (s.setV x b).agenda = s.agenda := rfl

/-! ### `State.setVF` -/

@[simp] theorem State.setVF_cfg (s : State) (b : Bool) : (s.setVF b).cfg = s.cfg := rfl
@[simp] theorem State.setVF_v (s : State) (b : Bool) : (s.setVF b).v = s.v.set vf (flagByte b) := rfl
@[simp] theorem State.setVF_i (s : State) (b : Bool) : (s.setVF b).i = s.i := rfl
@[simp] theorem State.setVF_pc (s : State) (b : Bool) : (s.setVF b).pc = s.pc := rfl
@[simp] theorem State.setVF_stack (s : State) (b : Bool) : (s.setVF b).stack = s.stack := rfl
@[simp] theorem State.setVF_sp (s : State) (b : Bool) : (s.setVF b).sp = s.sp := rfl
@[simp] theorem State.setVF_dt (s : State) (b : Bool) : (s.setVF b).dt = s.dt := rfl
@[simp] theorem State.setVF_st (s : State) (b : Bool) : (s.setVF b).st = s.st := rfl
@[simp] theorem State.setVF_div (s : State) (b : Bool) : (s.setVF b).div = s.div := rfl
@[simp] theorem State.setVF_ram (s : State) (b : Bool) : (s.setVF b).ram = s.ram := rfl
@[simp] theorem State.setVF_fb (s : State) (b : Bool) : (s.setVF b).fb = s.fb := rfl
@[simp] theorem State.setVF_dirty (s : State) (b : Bool) : (s.setVF b).dirty = s.dirty := rfl
@[simp] theorem State.setVF_key (s : State) (b : Bool) : (s.setVF b).key = s.key := rfl
@[simp] theorem State.setVF_latch (s : State) (b : Bool) : (s.setVF b).latch = s.latch := rfl
@[simp] theorem State.setVF_mode (s : State) (b : Bool) : (s.setVF b).mode = s.mode := rfl
@[simp] theorem State.setVF_halt (s : State) (b : Bool) : (s.setVF b).halt = s.halt := rfl
@[simp] theorem State.setVF_effect (s : State) (b : Bool) : (s.setVF b).effect = s.effect := rfl
@[simp] theorem State.setVF_unknownEvent (s : State) (b : Bool) : (s.setVF b).unknownEvent = s.unknownEvent := rfl
@[simp] theorem State.setVF_draws (s : State) (b : Bool) : (s.setVF b).draws = s.draws := rfl
@[simp] theorem State.setVF_agenda (s : State) (b : Bool) : (s.setVF b).agenda = s.agenda := rfl

/-! ### `State.finish` -/

@[simp] theorem State.finish_cfg (s : State) (a : Word) (e : Effect) : (s.finish a e).cfg = s.cfg := rfl
@[simp] theorem State.finish_v (s : State) (a : Word) (e : Effect) : (s.finish a e).v = s.v := rfl
@[simp] theorem State.finish_i (s : State) (a : Word) (e : Effect) : (s.finish a e).i = s.i := rfl
@[simp] theorem State.finish_pc (s : State) (a : Word) (e : Effect) : (s.finish a e).pc = a := rfl
@[simp] theorem State.finish_stack (s : State) (a : Word) (e : Effect) : (s.finish a e).stack = s.stack := rfl
@[simp] theorem State.finish_sp (s : State) (a : Word) (e : Effect) : (s.finish a e).sp = s.sp := rfl
@[simp] theorem State.finish_dt (s : State) (a : Word) (e : Effect) : (s.finish a e).dt = s.dt := rfl
@[simp] theorem State.finish_st (s : State) (a : Word) (e : Effect) : (s.finish a e).st = s.st := rfl
@[simp] theorem State.finish_div (s : State) (a : Word) (e : Effect) : (s.finish a e).div = s.div := rfl
@[simp] theorem State.finish_ram (s : State) (a : Word) (e : Effect) : (s.finish a e).ram = s.ram := rfl
@[simp] theorem State.finish_fb (s : State) (a : Word) (e : Effect) : (s.finish a e).fb = s.fb := rfl
@[simp] theorem State.finish_dirty (s : State) (a : Word) (e : Effect) : (s.finish a e).dirty = s.dirty := rfl
@[simp] theorem State.finish_key (s : State) (a : Word) (e : Effect) : (s.finish a e).key = s.key := rfl
@[simp] theorem State.finish_latch (s : State) (a : Word) (e : Effect) : (s.finish a e).latch = s.latch := rfl
@[simp] theorem State.finish_mode (s : State) (a : Word) (e : Effect) : (s.finish a e).mode = s.mode := rfl
@[simp] theorem State.finish_halt (s : State) (a : Word) (e : Effect) : (s.finish a e).halt = s.halt := rfl
@[simp] theorem State.finish_effect (s : State) (a : Word) (e : Effect) : (s.finish a e).effect = some e := rfl
@[simp] theorem State.finish_unknownEvent (s : State) (a : Word) (e : Effect) : (s.finish a e).unknownEvent = none := rfl
@[simp] theorem State.finish_draws (s : State) (a : Word) (e : Effect) : (s.finish a e).draws = s.draws := rfl
@[simp] theorem State.finish_agenda (s : State) (a : Word) (e : Effect) : (s.finish a e).agenda = s.agenda := rfl

/-! ### `State.halted` -/

@[simp] theorem State.halted_cfg (s : State) (k : ErrorKind) (w : Word) : (s.halted k w).cfg = s.cfg := rfl
@[simp] theorem State.halted_v (s : State) (k : ErrorKind) (w : Word) : (s.halted k w).v = s.v := rfl
@[simp] theorem State.halted_i (s : State) (k : ErrorKind) (w : Word) : (s.halted k w).i = s.i := rfl
@[simp] theorem State.halted_pc (s : State) (k : ErrorKind) (w : Word) : (s.halted k w).pc = s.pc := rfl
@[simp] theorem State.halted_stack (s : State) (k : ErrorKind) (w : Word) : (s.halted k w).stack = s.stack := rfl
@[simp] theorem State.halted_sp (s : State) (k : ErrorKind) (w : Word) : (s.halted k w).sp = s.sp := rfl
@[simp] theorem State.halted_dt (s : State) (k : ErrorKind) (w : Word) : (s.halted k w).dt = s.dt := rfl
@[simp] theorem State.halted_st (s : State) (k : ErrorKind) (w : Word) : (s.halted k w).st = s.st := rfl
@[simp] theorem State.halted_div (s : State) (k : ErrorKind) (w : Word) : (s.halted k w).div = s.div := rfl
@[simp] theorem State.halted_ram (s : State) (k : ErrorKind) (w : Word) : (s.halted k w).ram = s.ram := rfl
@[simp] theorem State.halted_fb (s : State) (k : ErrorKind) (w : Word) : (s.halted k w).fb = s.fb := rfl
@[simp] theorem State.halted_dirty (s : State) (k : ErrorKind) (w : Word) : (s.halted k w).dirty = s.dirty := rfl
@[simp] theorem State.halted_key (s : State) (k : ErrorKind) (w : Word) : (s.halted k w).key = s.key := rfl
@[simp] theorem State.halted_latch (s : State) (k : ErrorKind) (w : Word) : (s.halted k w).latch = s.latch := rfl
@[simp] theorem State.halted_mode (s : State) (k : ErrorKind) (w : Word) : (s.halted k w).mode = s.mode := rfl
@[simp] theorem State.halted_halt (s : State) (k : ErrorKind) (w : Word) : (s.halted k w).halt = some (k, w) := rfl
@[simp] theorem State.halted_effect (s : State) (k : ErrorKind) (w : Word) : (s.halted k w).effect = none := rfl
@[simp] theorem State.halted_unknownEvent (s : State) (k : ErrorKind) (w : Word) : (s.halted k w).unknownEvent = none := rfl
@[simp] theorem State.halted_draws (s : State) (k : ErrorKind) (w : Word) : (s.halted k w).draws = s.draws := rfl
@[simp] theorem State.halted_agenda (s : State) (k : ErrorKind) (w : Word) : (s.halted k w).agenda = s.agenda := rfl

/-! ### `State.logicFlag` -/

@[simp] theorem State.logicFlag_cfg (s : State) : s.logicFlag.cfg = s.cfg := by
  unfold State.logicFlag; split <;> rfl
@[simp] theorem State.logicFlag_i (s : State) : s.logicFlag.i = s.i := by
  unfold State.logicFlag; split <;> rfl
@[simp] theorem State.logicFlag_pc (s : State) : s.logicFlag.pc = s.pc := by
  unfold State.logicFlag; split <;> rfl
@[simp] theorem State.logicFlag_stack (s : State) : s.logicFlag.stack = s.stack := by
  unfold State.logicFlag; split <;> rfl
@[simp] theorem State.logicFlag_sp (s : State) : s.logicFlag.sp = s.sp := by
  unfold State.logicFlag; split <;> rfl
@[simp] theorem State.logicFlag_dt (s : State) : s.logicFlag.dt = s.dt := by
  unfold State.logicFlag; split <;> rfl
@[simp] theorem State.logicFlag_st (s : State) : s.logicFlag.st = s.st := by
  unfold State.logicFlag; split <;> rfl
@[simp] theorem State.logicFlag_div (s : State) : s.logicFlag.div = s.div := by
  unfold State.logicFlag; split <;> rfl
@[simp] theorem State.logicFlag_ram (s : State) : s.logicFlag.ram = s.ram := by
  unfold State.logicFlag; split <;> rfl
@[simp] theorem State.logicFlag_fb (s : State) : s.logicFlag.fb = s.fb := by
  unfold State.logicFlag; split <;> rfl
@[simp] theorem State.logicFlag_dirty (s : State) : s.logicFlag.dirty = s.dirty := by
  unfold State.logicFlag; split <;> rfl
@[simp] theorem State.logicFlag_key (s : State) : s.logicFlag.key = s.key := by
  unfold State.logicFlag; split <;> rfl
@[simp] theorem State.logicFlag_latch (s : State) : s.logicFlag.latch = s.latch := by
  unfold State.logicFlag; split <;> rfl
@[simp] theorem State.logicFlag_mode (s : State) : s.logicFlag.mode = s.mode := by
  unfold State.logicFlag; split <;> rfl
@[simp] theorem State.logicFlag_halt (s : State) : s.logicFlag.halt = s.halt := by
  unfold State.logicFlag; split <;> rfl
@[simp] theorem State.logicFlag_effect (s : State) : s.logicFlag.effect = s.effect := by
  unfold State.logicFlag; split <;> rfl
@[simp] theorem State.logicFlag_unknownEvent (s : State) : s.logicFlag.unknownEvent = s.unknownEvent := by
  unfold State.logicFlag; split <;> rfl
@[simp] theorem State.logicFlag_draws (s : State) : s.logicFlag.draws = s.draws := by
  unfold State.logicFlag; split <;> rfl
@[simp] theorem State.logicFlag_agenda (s : State) : s.logicFlag.agenda = s.agenda := by
  unfold State.logicFlag; split <;> rfl

/-! ### Reading registers after updates -/

theorem State.getV_setV_self (s : State) (x : Reg) (b : Byte) : (s.setV x b).getV x = b := by
  simp [State.getV, Vector.get_eq_getElem]

theorem State.getV_setV_ne (s : State) (x r : Reg) (b : Byte) (h : r ≠ x) : (s.setV x b).getV r = s.getV r := by
  have h' : x.val ≠ r.val := fun e => h (Fin.ext e.symm)
  simp [State.getV, Vector.get_eq_getElem, Vector.getElem_set_ne, h']

/-- A register read after a register write (10_state.md R21). -/
@[simp] theorem State.getV_setV (s : State) (x r : Reg) (b : Byte) :
    (s.setV x b).getV r = if r = x then b else s.getV r := by
  split
  · subst r; exact State.getV_setV_self s x b
  · exact State.getV_setV_ne s x r b ‹_›

@[simp] theorem State.getV_setVF (s : State) (r : Reg) (b : Bool) :
    (s.setVF b).getV r = if r = vf then flagByte b else s.getV r := State.getV_setV s vf r _

@[simp] theorem State.getV_finish (s : State) (r : Reg) (a : Word) (e : Effect) :
    (s.finish a e).getV r = s.getV r := rfl

@[simp] theorem State.getV_halted (s : State) (r : Reg) (k : ErrorKind) (w : Word) :
    (s.halted k w).getV r = s.getV r := rfl

@[simp] theorem State.getV_logicFlag (s : State) (r : Reg) :
    s.logicFlag.getV r = if s.cfg.logicResetVF ∧ r = vf then 0 else s.getV r := by
  unfold State.logicFlag
  split <;> simp_all [flagByte]

/-- Registers that agree everywhere are the same file. -/
theorem regs_ext (v w : Vector Byte 16) (h : ∀ r : Reg, v.get r = w.get r) : v = w := by
  apply Vector.ext
  intro j hj
  exact h ⟨j, hj⟩

end Sys2Proof.Machine
end

