-- ==== Sys2Proof/Laws/Ops.lean ====
section
/-! SUPPORT. One lemma per shared operation that says everything it can do; later proofs cite these and do not unfold
the operation. -/

namespace Sys2Proof.Machine

/-! ### The bounds check -/

/-- The check passes exactly when no access is made or the last address is in RAM (20_memory.md R71). -/
theorem rangeError_none_iff (base count : Nat) :
    rangeError base count = none ↔ count = 0 ∨ base + count ≤ ramSize := by
  unfold rangeError
  split <;> simp <;> omega

/-- A failing check names the lowest address out of bounds (60_exceptions.md R251). -/
theorem rangeError_some_iff (base count : Nat) (info : Word) :
    rangeError base count = some info ↔
      0 < count ∧ ramSize < base + count ∧ info = BitVec.ofNat 16 (max base ramSize) := by
  unfold rangeError
  split <;> simp_all [eq_comm]

/-! ### Ending a step -/

@[simp] theorem complete_advance (s : State) : complete .advance s = .next (s.finish (s.pc + 2) .advance) := rfl
@[simp] theorem complete_jump (s : State) (a : Word) : complete (.jump a) s = .next (s.finish a (.jump a)) := rfl
@[simp] theorem complete_skip (s : State) : complete .skip s = .next (s.finish (s.pc + 4) .skip) := rfl
@[simp] theorem complete_wait (s : State) : complete .wait s = .next (s.finish s.pc .wait) := rfl

/-- A call with a free slot pushes and jumps (40_control_flow.md R122). -/
theorem complete_call (s : State) (a : Word) (h : s.sp < s.stack.length) :
    complete (.call a) s =
      .next (State.finish { s with stack := s.stack.set s.sp (s.pc + 2), sp := s.sp + 1 } a (.call a)) := by
  simp [complete, h]

/-- A return pops the newest address (40_control_flow.md R122). -/
theorem complete_ret (s : State) (a : Word) (h : s.stack[s.sp - 1]? = some a) :
    complete .ret s = .next (State.finish { s with sp := s.sp - 1 } a .ret) := by
  simp [complete, h]

/-- Everything an effect can do to a state: it moves `PC`, reports itself, and changes the stack only for Call and
Return. -/
theorem complete_next {e : Effect} {s t : State} (h : complete e s = .next t) :
    (e = .advance ∧ t = s.finish (s.pc + 2) .advance) ∨
    (∃ a, e = .jump a ∧ t = s.finish a (.jump a)) ∨
    (∃ a, e = .call a ∧ s.sp < s.stack.length ∧
      t = State.finish { s with stack := s.stack.set s.sp (s.pc + 2), sp := s.sp + 1 } a (.call a)) ∨
    (∃ a, e = .ret ∧ s.stack[s.sp - 1]? = some a ∧ t = State.finish { s with sp := s.sp - 1 } a .ret) ∨
    (e = .skip ∧ t = s.finish (s.pc + 4) .skip) ∨
    (e = .wait ∧ t = s.finish s.pc .wait) := by
  cases e with
  | call a =>
    simp only [complete] at h
    split at h <;> simp_all
  | ret =>
    simp only [complete] at h
    split at h <;> simp_all
  | _ => simp_all [complete]

/-- Skip or Advance (40_control_flow.md R131). -/
theorem skipIf_eq (b : Bool) (s : State) :
    skipIf b s = .next (if b then s.finish (s.pc + 4) .skip else s.finish (s.pc + 2) .advance) := by
  cases b <;> rfl

/-- An error halts and changes nothing else of the machine (60_exceptions.md R256). -/
@[simp] theorem raise_eq (k : ErrorKind) (info : Word) (s : State) : raise k info s = .next (s.halted k info) := rfl

/-! ### The step -/

/-- Everything a `Step` can do (40_control_flow.md R124). -/
theorem engineStep_cases (s : State) :
    (s.halt.isSome ∧ engineStep s = .next s) ∨
    (s.halt = none ∧ ∃ info, s.fetch = .error info ∧ engineStep s = .next (s.halted .outOfBoundsAccess info)) ∨
    (s.halt = none ∧ ∃ w i, s.fetch = .ok w ∧ decode w = .ok i ∧ engineStep s = exec i s) ∨
    (s.halt = none ∧ ∃ w r, s.fetch = .ok w ∧ decode w = .error r ∧ engineStep s = unknownWord w s) := by
  unfold engineStep
  cases hh : s.halt with
  | some e => simp
  | none =>
    cases hf : s.fetch with
    | error info => simp
    | ok w => cases hd : decode w <;> simp [hd]

/-- Everything one action of the machine can be: a `Step`, or the head of the agenda. -/
theorem step_cases (s : State) :
    (s.agenda = [] ∧ step s = engineStep s) ∨
    (∃ a rest, s.agenda = a :: rest ∧ step s = act a { s with agenda := rest }) := by
  unfold step nextAction
  cases s.agenda <;> simp

/-- The bytes placed by `withFetchWord` are the ones the step fetches. -/
theorem fetch_eq_ok_iff (s : State) (w : Word) :
    s.fetch = .ok w ↔ s.pc.toNat + 2 ≤ ramSize ∧ w = s.wordAt s.pc.toNat := by
  unfold State.fetch
  cases h : rangeError s.pc.toNat 2 with
  | none =>
    have := (rangeError_none_iff _ _).mp h
    simp only [Except.ok.injEq, eq_comm (a := w)]
    exact ⟨fun hw => ⟨by omega, hw⟩, And.right⟩
  | some info =>
    have := ((rangeError_some_iff _ _ _).mp h).2.1
    simp; omega

/-! ### Operands -/

/-- A 12-bit address keeps its value. -/
@[simp] theorem imm12_toNat (nnn : Addr12) : (imm12 nnn).toNat = nnn.toNat := by
  simp [imm12]; omega

/-- A byte keeps its value. -/
@[simp] theorem zext16_toNat (b : Byte) : (zext16 b).toNat = b.toNat := by
  simp [zext16]; omega

/-- The key index of a byte is its value, when that is a key. -/
theorem keyIndex_eq (b : Byte) (k : Key) : keyIndex b = some k ↔ b.toNat = k.val := by
  unfold keyIndex
  split
  · simp [Fin.ext_iff]
  · have := k.isLt
    simp; omega

/-- A bulk load writes the registers below its count and no other (44_timer_index_memory.md R235). -/
theorem loadRegs_get (m : Memory) (base : Nat) (v : Vector Byte 16) (n : Nat) (r : Reg) :
    (loadRegs m base v n).get r = if r.val < n then m.read (base + r.val) else v.get r := by
  induction n with
  | zero => simp [loadRegs]
  | succ n ih =>
    simp only [loadRegs, Vector.get_eq_getElem, Vector.getElem_setIfInBounds] at *
    split
    · rename_i h; subst h; simp
    · rw [ih]; split <;> rename_i h2 <;> simp <;> omega

@[simp] theorem bcdDigits_length (b : Byte) : (bcdDigits b).length = 3 := rfl

@[simp] theorem dumpBytes_length (s : State) (x : Reg) : (dumpBytes s x).length = x.val + 1 := by
  simp [dumpBytes]

/-! ### The timer and the host -/

/-- The divider's period in cycles. -/
theorem clkHz_div_tickHz : clkHz / tickHz = Config.clkMultiple + 1 := by
  unfold clkHz tickHz; omega

/-- A countdown is subtraction that stops at zero (60_exceptions.md R271). -/
@[simp] theorem countDown_toNat : ∀ t : Byte, (countDown t).toNat = t.toNat - 1 := by decide

/-- `Tick` while halted. -/
theorem tick_halted (s : State) (h : s.halt ≠ none) : s.tick = s := by
  unfold State.tick
  cases hh : s.halt <;> simp_all

/-- `Tick` while not halted. -/
theorem tick_running (s : State) (h : s.halt = none) :
    s.tick = { s with dt := countDown s.dt, st := countDown s.st } := by
  simp [State.tick, h]

/-- Everything one action can do besides a `Step`: a reset, or a change of timers, divider, keys, latch or dirty flag. -/
theorem act_next {a : Action} {s t : State} (h : act a s = .next t) :
    (a = .step ∧ engineStep s = .next t) ∨ (a = .clk ∧ t = s.clkEdge) ∨ (a = .tick ∧ t = s.tick) ∨
    (∃ k, a = .keyPress k ∧ t = s.keyPress k) ∨ (∃ k, a = .keyRelease k ∧ t = s.keyRelease k) ∨
    (a = .fbAck ∧ t = s.fbAck) ∨
    (∃ rom launch, a = .reset rom launch ∧ rom.length ≤ maxRomLen ∧
      t = { State.fresh s.cfg (bootRam s.cfg rom launch) with draws := s.draws, agenda := s.agenda }) := by
  cases a with
  | reset rom launch =>
    simp only [act, resetTo] at h
    split at h <;> simp_all
  | _ => simp_all [act]

end Sys2Proof.Machine
end

