-- ==== Sys2Proof/Laws/PerInstr.lean ====
section
/-! SUPPORT. The per-instruction family RowMatch: the word the encoder writes for an instruction matches that
instruction's row of 30_encoding.md R96 (`w & mask = match`). -/

namespace Sys2Proof.Laws

/-- The encoder's word is of the instruction's row. -/
def RowMatch.Statement (i : Instr) : Prop := encode i &&& (tableRow i).1 = (tableRow i).2

/-- A word masked in some of its nibbles is masked nibble by nibble. -/
theorem packNibbles_and (a b c d a' b' c' d' : Nibble) :
    packNibbles a b c d &&& packNibbles a' b' c' d' = packNibbles (a &&& a') (b &&& b') (c &&& c') (d &&& d') := by
  unfold packNibbles; ext i hi; simp; grind

theorem mask_op (a b c d : Nibble) : packNibbles a b c d &&& 0xF000 = packNibbles a 0 0 0 := by
  rw [show (0xF000 : Word) = packNibbles 0xF 0 0 0 by decide, packNibbles_and]
  congr 1 <;> (revert a b c d; decide)

theorem mask_op_n (a b c d : Nibble) : packNibbles a b c d &&& 0xF00F = packNibbles a 0 0 d := by
  rw [show (0xF00F : Word) = packNibbles 0xF 0 0 0xF by decide, packNibbles_and]
  congr 1 <;> (revert a b c d; decide)

theorem mask_op_nn (a b c d : Nibble) : packNibbles a b c d &&& 0xF0FF = packNibbles a 0 c d := by
  rw [show (0xF0FF : Word) = packNibbles 0xF 0 0xF 0xF by decide, packNibbles_and]
  congr 1 <;> (revert a b c d; decide)

theorem RowMatch.cls : RowMatch.Statement .cls :=
  by unfold RowMatch.Statement; decide
theorem RowMatch.ret : RowMatch.Statement .ret :=
  by unfold RowMatch.Statement; decide
theorem RowMatch.jp (nnn : Addr12) : RowMatch.Statement (.jp nnn) :=
  (mask_op _ _ _ _).trans rfl
theorem RowMatch.call (nnn : Addr12) : RowMatch.Statement (.call nnn) :=
  (mask_op _ _ _ _).trans rfl
theorem RowMatch.seImm (x : Reg) (nn : Byte) : RowMatch.Statement (.seImm x nn) :=
  (mask_op _ _ _ _).trans rfl
theorem RowMatch.sneImm (x : Reg) (nn : Byte) : RowMatch.Statement (.sneImm x nn) :=
  (mask_op _ _ _ _).trans rfl
theorem RowMatch.seReg (x : Reg) (y : Reg) : RowMatch.Statement (.seReg x y) :=
  (mask_op_n _ _ _ _).trans rfl
theorem RowMatch.ldImm (x : Reg) (nn : Byte) : RowMatch.Statement (.ldImm x nn) :=
  (mask_op _ _ _ _).trans rfl
theorem RowMatch.addImm (x : Reg) (nn : Byte) : RowMatch.Statement (.addImm x nn) :=
  (mask_op _ _ _ _).trans rfl
theorem RowMatch.ldReg (x : Reg) (y : Reg) : RowMatch.Statement (.ldReg x y) :=
  (mask_op_n _ _ _ _).trans rfl
theorem RowMatch.orReg (x : Reg) (y : Reg) : RowMatch.Statement (.orReg x y) :=
  (mask_op_n _ _ _ _).trans rfl
theorem RowMatch.andReg (x : Reg) (y : Reg) : RowMatch.Statement (.andReg x y) :=
  (mask_op_n _ _ _ _).trans rfl
theorem RowMatch.xorReg (x : Reg) (y : Reg) : RowMatch.Statement (.xorReg x y) :=
  (mask_op_n _ _ _ _).trans rfl
theorem RowMatch.addReg (x : Reg) (y : Reg) : RowMatch.Statement (.addReg x y) :=
  (mask_op_n _ _ _ _).trans rfl
theorem RowMatch.subReg (x : Reg) (y : Reg) : RowMatch.Statement (.subReg x y) :=
  (mask_op_n _ _ _ _).trans rfl
theorem RowMatch.shr (x : Reg) (y : Reg) : RowMatch.Statement (.shr x y) :=
  (mask_op_n _ _ _ _).trans rfl
theorem RowMatch.subnReg (x : Reg) (y : Reg) : RowMatch.Statement (.subnReg x y) :=
  (mask_op_n _ _ _ _).trans rfl
theorem RowMatch.shl (x : Reg) (y : Reg) : RowMatch.Statement (.shl x y) :=
  (mask_op_n _ _ _ _).trans rfl
theorem RowMatch.sneReg (x : Reg) (y : Reg) : RowMatch.Statement (.sneReg x y) :=
  (mask_op_n _ _ _ _).trans rfl
theorem RowMatch.ldI (nnn : Addr12) : RowMatch.Statement (.ldI nnn) :=
  (mask_op _ _ _ _).trans rfl
theorem RowMatch.jpV0 (nnn : Addr12) (x : Reg) : RowMatch.Statement (.jpV0 nnn x) :=
  (mask_op _ _ _ _).trans rfl
theorem RowMatch.rnd (x : Reg) (nn : Byte) : RowMatch.Statement (.rnd x nn) :=
  (mask_op _ _ _ _).trans rfl
theorem RowMatch.drw (x : Reg) (y : Reg) (n : Nibble) : RowMatch.Statement (.drw x y n) :=
  (mask_op _ _ _ _).trans rfl
theorem RowMatch.skp (x : Reg) : RowMatch.Statement (.skp x) :=
  (mask_op_nn _ _ _ _).trans rfl
theorem RowMatch.sknp (x : Reg) : RowMatch.Statement (.sknp x) :=
  (mask_op_nn _ _ _ _).trans rfl
theorem RowMatch.ldVxDt (x : Reg) : RowMatch.Statement (.ldVxDt x) :=
  (mask_op_nn _ _ _ _).trans rfl
theorem RowMatch.ldVxK (x : Reg) : RowMatch.Statement (.ldVxK x) :=
  (mask_op_nn _ _ _ _).trans rfl
theorem RowMatch.ldDtVx (x : Reg) : RowMatch.Statement (.ldDtVx x) :=
  (mask_op_nn _ _ _ _).trans rfl
theorem RowMatch.ldStVx (x : Reg) : RowMatch.Statement (.ldStVx x) :=
  (mask_op_nn _ _ _ _).trans rfl
theorem RowMatch.addIVx (x : Reg) : RowMatch.Statement (.addIVx x) :=
  (mask_op_nn _ _ _ _).trans rfl
theorem RowMatch.ldFVx (x : Reg) : RowMatch.Statement (.ldFVx x) :=
  (mask_op_nn _ _ _ _).trans rfl
theorem RowMatch.ldBVx (x : Reg) : RowMatch.Statement (.ldBVx x) :=
  (mask_op_nn _ _ _ _).trans rfl
theorem RowMatch.ldMemVx (x : Reg) : RowMatch.Statement (.ldMemVx x) :=
  (mask_op_nn _ _ _ _).trans rfl
theorem RowMatch.ldVxMem (x : Reg) : RowMatch.Statement (.ldVxMem x) :=
  (mask_op_nn _ _ _ _).trans rfl

end Sys2Proof.Laws
end

