-- ==== Sys2Proof/Tests/Slice0.lean ====
section
/-! SUPPORT. Tests of the model, each expected value worked out by hand from spec/ (95_test_vectors.md unless a comment
says otherwise), and for every obligation with hypotheses a witness that meets them all together. -/

set_option maxRecDepth 8000

namespace Sys2Proof.Tests

open Sys2Proof Sys2Proof.Machine

/-! ### Well-formedness (30_encoding.md R92, R93) -/

theorem test_wellFormed_jpV0 : (Instr.jpV0 0xF00 15).wellFormed = true := by decide

/-- `x` that is not the top nibble of `nnn`: no word has these operands. -/
theorem test_wellFormed_jpV0_refuses : (Instr.jpV0 0xF00 14).wellFormed = false := by decide

/-! ### Decoding and encoding, from the patterns of 30_encoding.md R96 and the vectors of 2.1 -/

/-- A word decodes to the instruction and the instruction encodes to the word. -/
def reads (w : Word) (i : Instr) : Bool := decode w = .ok i ∧ encode i = w

theorem test_decode_control :
    reads 0x00EE .ret ∧ reads 0x1FFF (.jp 0xFFF) ∧ reads 0x220A (.call 0x20A) ∧ reads 0x3A05 (.seImm 10 0x05) ∧
    reads 0x4A7F (.sneImm 10 0x7F) ∧ reads 0x5120 (.seReg 1 2) ∧ reads 0x9AB0 (.sneReg 10 11) ∧
    reads 0xBF00 (.jpV0 0xF00 15) := by decide

theorem test_decode_alu :
    reads 0x6FAB (.ldImm 15 0xAB) ∧ reads 0x70FF (.addImm 0 0xFF) ∧ reads 0x8AB0 (.ldReg 10 11) ∧
    reads 0x8AB1 (.orReg 10 11) ∧ reads 0x8AB2 (.andReg 10 11) ∧ reads 0x8AB3 (.xorReg 10 11) ∧
    reads 0x8AB4 (.addReg 10 11) ∧ reads 0x8AB5 (.subReg 10 11) ∧ reads 0x8AB6 (.shr 10 11) ∧
    reads 0x8AB7 (.subnReg 10 11) ∧ reads 0x800E (.shl 0 0) ∧ reads 0xC3A5 (.rnd 3 0xA5) := by decide

theorem test_decode_display : reads 0x00E0 .cls ∧ reads 0xD015 (.drw 0 1 5) ∧ reads 0xD000 (.drw 0 0 0) := by decide

theorem test_decode_keypad : reads 0xE09E (.skp 0) ∧ reads 0xEFA1 (.sknp 15) ∧ reads 0xF10A (.ldVxK 1) := by decide

theorem test_decode_timerIndexMemory :
    reads 0xF207 (.ldVxDt 2) ∧ reads 0xF015 (.ldDtVx 0) ∧ reads 0xF318 (.ldStVx 3) ∧ reads 0xA123 (.ldI 0x123) ∧
    reads 0xF21E (.addIVx 2) ∧ reads 0xFA29 (.ldFVx 10) ∧ reads 0xF033 (.ldBVx 0) ∧ reads 0xF155 (.ldMemVx 1) ∧
    reads 0xFF65 (.ldVxMem 15) := by decide

/-- Unknown words, one or two for each group of R97, the near misses of strict decoding among them. -/
theorem test_decode_unknown :
    [0x0000, 0x00E1, 0x0123, 0x01EE].map decode = List.replicate 4 (.error .unknownOp0) ∧
    decode 0x5121 = .error .unknownOp5 ∧ decode 0x8008 = .error .unknownOp8 ∧ decode 0x800F = .error .unknownOp8 ∧
    decode 0x9AB1 = .error .unknownOp9 ∧ decode 0xE000 = .error .unknownOpE ∧ decode 0xE19F = .error .unknownOpE ∧
    decode 0xF000 = .error .unknownOpF ∧ decode 0xF075 = .error .unknownOpF ∧ decode 0xFFFF = .error .unknownOpF := by
  decide

/-- Two bytes, the high one first; the rest is given back; one byte is too few (20_memory.md R67, R90). -/
theorem test_decode_bytes :
    decodeBytes [0xA1, 0x23, 0x77] = .ok (.ldI 0x123, [0x77]) ∧ decodeBytes [0xA1] = .error .tooShort := by decide

theorem test_decodeTableWord :
    decodeTableWord 16 0x00E0 = some .cls ∧ decodeTableWord 16 0x8AB7 = some (.subnReg 10 11) ∧
    decodeTableWord 16 0x5121 = none := by decide

/-! ### Helpers: small states, and one step on a word placed at `PC` -/

/-- A state with some registers set. -/
def withRegs (rs : List (Reg × Byte)) (s : State) : State := rs.foldl (fun t p => t.setV p.1 p.2) s

/-- A state with bytes of RAM set. -/
def withBytes (a : Nat) (bs : List Byte) (s : State) : State := { s with ram := s.ram.writeBytes a bs }

/-- A state with some cells of a clear framebuffer lit. -/
def withLit (cells : List (Nat × Nat)) (s : State) : State :=
  { s with fb := cells.foldl (fun fb rc => fb.flip rc.1 rc.2) s.fb }

/-- The reset state with registers set. -/
def start (rs : List (Reg × Byte)) : State := withRegs rs State.reset

/-- The next state of an outcome. -/
def nextOf (o : Host.Outcome State Fault Refusal) : Option State :=
  match o with
  | .next t => some t
  | _ => none

/-- The state after the instruction word `w`, placed at `PC`, has run. -/
def after (s : State) (w : Nat) : Option State := nextOf (step (s.withFetchWord 16 w))

/-- Where an instruction word ends: `PC`, the effect, the error. -/
def ends (s : State) (w : Nat) : Option (Word × Option Effect × Option (ErrorKind × Word)) :=
  (after s w).map fun t => (t.pc, t.effect, t.halt)

/-- V[x] and VF after an instruction word. -/
def flagged (s : State) (x : Reg) (w : Nat) : Option (Byte × Byte) := (after s w).map fun t => (t.getV x, t.getV vf)

/-- The lit cells, row by row. -/
def lit (fb : Framebuffer) : List (Nat × Nat) :=
  (List.range fb.length).flatMap fun r => ((List.range 64).filter fun c => fb.cell r c).map fun c => (r, c)

/-- The lit cells, VF and DIRTY after an instruction word. -/
def drawn (s : State) (w : Nat) : Option (List (Nat × Nat) × Byte × Bool) :=
  (after s w).map fun t => (lit t.fb, t.getV vf, t.dirty)

/-! ### Fetch and control flow (2.2) -/

/-- 2.2 rows 1 to 3: the high byte first, an odd `PC`, the last `PC` that can be fetched from. -/
theorem test_fetch :
    (withBytes 0x200 [0x12, 0x06] State.reset).fetch = .ok 0x1206 ∧
    (withBytes 0x201 [0x60, 0x2A] { State.reset with pc := 0x201 }).fetch = .ok 0x602A ∧
    (withBytes 0xFFE [0x60, 0x01] { State.reset with pc := 0xFFE }).fetch = .ok 0x6001 := by decide

/-- 2.2 rows 3 to 5, 2.8 row 4: the fetch that is out of bounds. -/
theorem test_fetch_out_of_bounds :
    ([0x0FFF, 0x1000, 0x10FE].map fun pc => (nextOf (step { State.reset with pc := pc })).map fun t => (t.pc, t.halt)) =
      [some (0x0FFF, some (.outOfBoundsAccess, 0x1000)), some (0x1000, some (.outOfBoundsAccess, 0x1000)),
       some (0x10FE, some (.outOfBoundsAccess, 0x10FE))] := by decide

/-- 2.1, Unknown handling, both settings of `UNKNOWN_FATAL`. -/
theorem test_unknown_word :
    (after State.reset 0x5121).map (fun t => (t.pc, t.halt, t.effect, t.unknownEvent)) =
      some (0x200, some (.unknownInstruction, 0x5121), none, some 0x5121) ∧
    (after { State.reset with cfg := { defaultConfig with unknownFatal := false } } 0x5121).map
      (fun t => (t.pc, t.halt, t.effect, t.unknownEvent)) = some (0x202, none, some .advance, some 0x5121) := by
  and_intros <;> decide

theorem test_jp : ends State.reset 0x1206 = some (0x206, some (.jump 0x206), none) := by decide

/-- 2.2 rows 6 and 10. -/
theorem test_call :
    (after { State.reset with pc := 0x202 } 0x220A).map (fun t => (t.stack[0]?, t.sp, t.pc, t.effect)) =
      some (some 0x204, 1, 0x20A, some (.call 0x20A)) ∧
    (after { State.reset with pc := 0x300, sp := 15 } 0x2400).map (fun t => (t.stack[15]?, t.sp, t.pc)) =
      some (some 0x302, 16, 0x400) := by decide

/-- 2.2 row 9. -/
theorem test_call_full :
    (after { State.reset with pc := 0x300, sp := 16 } 0x2300).map (fun t => (t.halt, t.pc, t.sp)) =
      some (some (.stackOverflow, 0x300), 0x300, 16) := by decide

/-- 2.2 rows 7 and 8. -/
theorem test_ret :
    (after { State.reset with pc := 0x20E, sp := 1, stack := State.reset.stack.set 0 0x204 } 0x00EE).map
      (fun t => (t.sp, t.pc, t.effect)) = some (0, 0x204, some .ret) ∧
    ends { State.reset with pc := 0x202 } 0x00EE = some (0x202, none, some (.stackUnderflow, 0x202)) := by decide

/-- 2.2 rows 11 and 12: both settings of `JUMP_OFFSET_VX`; the sum is not reduced to 12 bits. -/
theorem test_jpV0 :
    ends (start [(0, 0x10), (3, 0x04)]) 0xB300 = some (0x310, some (.jump 0x310), none) ∧
    ends { start [(0, 0x10), (3, 0x04)] with cfg := { defaultConfig with jumpOffsetVX := true } } 0xB300 =
      some (0x304, some (.jump 0x304), none) ∧
    ends (start [(0, 0xFF)]) 0xBFFF = some (0x10FE, some (.jump 0x10FE), none) := by
  and_intros <;> decide

/-- 2.2 rows 14 and 15. -/
theorem test_seImm :
    ends (start []) 0x3000 = some (0x204, some .skip, none) ∧
    ends (start [(0, 1)]) 0x3000 = some (0x202, some .advance, none) := by decide

/-- 2.2 rows 16 and 17. -/
theorem test_sneImm :
    ends (start [(10, 0x7F)]) 0x4A7F = some (0x202, some .advance, none) ∧
    ends (start [(10, 0x80)]) 0x4A7F = some (0x204, some .skip, none) := by decide

/-- 2.2 rows 18 and 20, and their opposites. -/
theorem test_seReg_sneReg :
    ends (start [(1, 0x33), (2, 0x33)]) 0x5120 = some (0x204, some .skip, none) ∧
    ends (start [(1, 0x33), (2, 0x34)]) 0x5120 = some (0x202, some .advance, none) ∧
    ends (start [(1, 0x33), (2, 0x34)]) 0x9120 = some (0x204, some .skip, none) ∧
    ends (start [(5, 0x33)]) 0x9550 = some (0x202, some .advance, none) := by
  and_intros <;> decide

/-! ### The ALU datapath (2.3) -/

/-- A state whose logic instructions clear VF. -/
def resetting (s : State) : State := { s with cfg := { s.cfg with logicResetVF := true } }

/-- A state whose shifts read V[y]. -/
def shiftingY (s : State) : State := { s with cfg := { s.cfg with shiftSrcY := true } }

theorem test_ldImm_ldReg :
    (after (start []) 0x6FAB).map (fun t => (t.getV 15, t.pc)) = some (0xAB, 0x202) ∧
    (after (start [(2, 0x7E)]) 0x8120).map (fun t => (t.getV 1, t.getV 2)) = some (0x7E, 0x7E) := by decide

/-- 2.3 rows 4 to 6. -/
theorem test_logic :
    flagged (start [(1, 0x0F), (2, 0xF0), (15, 1)]) 1 0x8121 = some (0xFF, 1) ∧
    flagged (resetting (start [(1, 0x0F), (2, 0xF0), (15, 1)])) 1 0x8121 = some (0xFF, 0) ∧
    flagged (start [(1, 0x3C), (2, 0x0F), (15, 7)]) 1 0x8122 = some (0x0C, 7) ∧
    flagged (resetting (start [(1, 0xFF), (2, 0x0F), (15, 7)])) 1 0x8123 = some (0xF0, 0) := by decide

/-- 41_alu.md R156: 0xFF + 2 wraps and VF keeps its value. -/
theorem test_addImm : flagged (start [(3, 0xFF), (15, 9)]) 3 0x7302 = some (0x01, 9) := by decide

/-- 2.3 rows 14, 16, 17, 18, 20: the carry boundary, x = y, and VF as destination and as source. -/
theorem test_addReg :
    flagged (start [(0, 0xFF), (1, 0x01)]) 0 0x8014 = some (0x00, 1) ∧
    flagged (start [(0, 0xFE), (1, 0x01)]) 0 0x8014 = some (0xFF, 0) ∧
    flagged (start [(0, 0x80)]) 0 0x8004 = some (0x00, 1) ∧
    flagged (start [(15, 3), (1, 4)]) 15 0x8F14 = some (0, 0) ∧
    flagged (start [(0, 0x10), (15, 1)]) 0 0x80F4 = some (0x11, 0) := by decide

/-- 2.3 rows 22, 23, 26. -/
theorem test_subReg :
    flagged (start [(0, 0x05), (1, 0x0A)]) 0 0x8015 = some (0xFB, 0) ∧
    flagged (start [(0, 0x07), (1, 0x07)]) 0 0x8015 = some (0x00, 1) ∧
    flagged (start [(15, 5), (1, 3)]) 15 0x8F15 = some (1, 1) := by decide

/-- 2.3 rows 27 to 29. -/
theorem test_subnReg :
    flagged (start [(0, 0x05), (1, 0x0A)]) 0 0x8017 = some (0x05, 1) ∧
    flagged (start [(0, 0x0A), (1, 0x05)]) 0 0x8017 = some (0xFB, 0) ∧
    flagged (start [(0, 0x07), (1, 0x07)]) 0 0x8017 = some (0x00, 1) := by decide

/-- 2.3 rows 30, 33, 35, 40. -/
theorem test_shr :
    flagged (start [(1, 0x05), (2, 0x08)]) 1 0x8126 = some (0x02, 1) ∧
    flagged (shiftingY (start [(1, 0x05), (2, 0x08)])) 1 0x8126 = some (0x04, 0) ∧
    flagged (start [(0, 0x80)]) 0 0x8006 = some (0x40, 0) ∧
    flagged (start [(15, 2)]) 15 0x8F06 = some (0, 0) ∧
    flagged (shiftingY (start [(15, 3)])) 1 0x81F6 = some (1, 1) := by decide

/-- 2.3 rows 36, 38, 39. -/
theorem test_shl :
    flagged (start [(1, 0x81), (2, 0x40)]) 1 0x812E = some (0x02, 1) ∧
    flagged (shiftingY (start [(1, 0x81), (2, 0x40)])) 1 0x812E = some (0x80, 0) ∧
    flagged (start [(0, 0x7F)]) 0 0x800E = some (0xFE, 0) ∧
    flagged (start [(15, 0x40)]) 15 0x8F0E = some (0, 0) := by decide

/-- 41_alu.md R162: the step completes and the next draw is another one, whatever the draw is. -/
theorem test_rnd :
    (after (start [(3, 0x55)]) 0xC00F).map (fun t => (t.getV 3, t.draws, t.pc)) = some (0x55, 1, 0x202) := by decide

/-- 2.3 row 42: with the mask 0 the result is 0 whatever the draw is. -/
theorem test_rnd_mask_zero :
    ∃ t, exec (.rnd 0 0x00) (start [(0, 0x55)]) = .next t ∧ t.getV 0 = 0x00 :=
  ⟨_, rfl, BitVec.and_zero⟩

/-! ### The display (2.4) -/

/-- 2.4 row 1. -/
theorem test_cls : drawn (withLit [(3, 4)] (start [(15, 9)])) 0x00E0 = some ([], 9, true) := by decide

/-- 2.4 rows 3 to 7: bit 7 is column 0, bit 0 column 7; a collision clears; a lit cell under a 0 bit is no collision. -/
theorem test_drw :
    let s (b : Byte) := withBytes 0x300 [b] { start [] with i := 0x300 }
    drawn (s 0x80) 0xD011 = some ([(0, 0)], 0, true) ∧
    drawn (withLit [(0, 0)] (s 0x80)) 0xD011 = some ([], 1, true) ∧
    drawn (s 0x01) 0xD011 = some ([(0, 7)], 0, true) ∧
    drawn (withLit [(0, 1)] (s 0xC0)) 0xD011 = some ([(0, 0)], 1, true) ∧
    drawn (withLit [(0, 2)] (s 0xC0)) 0xD011 = some ([(0, 0), (0, 1), (0, 2)], 0, true) := by
  dsimp only; and_intros <;> decide

/-- 2.4 rows 8, 9, 11, 13, 15, 16: each axis wraps by itself; no rows; the error; VF as a coordinate. -/
theorem test_drw_edges :
    drawn (withBytes 0x300 [0xFF, 0x81] { start [(0, 0x3E), (1, 0x1F)] with i := 0x300 }) 0xD012 =
      some ([(0, 5), (0, 62), (31, 0), (31, 1), (31, 2), (31, 3), (31, 4), (31, 5), (31, 62), (31, 63)], 0, true) ∧
    drawn (withBytes 0x300 [0xC0] { start [(0, 0xFF), (1, 0xFF)] with i := 0x300 }) 0xD011 =
      some ([(31, 0), (31, 63)], 0, true) ∧
    drawn (withLit [(1, 1)] { start [(15, 1)] with i := 0xFFFF }) 0xD010 = some ([(1, 1)], 0, true) ∧
    ends { start [] with i := 0x0FFC } 0xD015 = some (0x200, none, some (.outOfBoundsAccess, 0x1000)) ∧
    ends { start [] with i := 0x1234 } 0xD011 = some (0x200, none, some (.outOfBoundsAccess, 0x1234)) ∧
    drawn (withBytes 0x300 [0x80] { start [(15, 5), (1, 2)] with i := 0x300 }) 0xDF11 = some ([(2, 5)], 0, true) := by
  and_intros <;> decide

/-! ### The keypad (2.5) -/

/-- 2.5 rows 1 to 7. -/
theorem test_skp_sknp :
    let down := (start [(1, 0x0A)]).keyPress 10
    let up := down.keyRelease 10
    ends down 0xE19E = some (0x204, some .skip, none) ∧ ends up 0xE19E = some (0x202, some .advance, none) ∧
    ends down 0xE1A1 = some (0x202, some .advance, none) ∧ ends up 0xE1A1 = some (0x204, some .skip, none) := by
  dsimp only; and_intros <;> decide

/-- 2.5 rows 5 and 6. -/
theorem test_skp_sknp_bad_key :
    ends (start [(1, 0x10)]) 0xE19E = some (0x200, none, some (.outOfBoundsAccess, 0x0010)) ∧
    ends (start [(1, 0xFF)]) 0xE1A1 = some (0x200, none, some (.outOfBoundsAccess, 0x00FF)) := by decide

/-- 2.5 rows 8, 9, 11: arming and polling with nothing latched, and what arming does to an earlier press. -/
theorem test_ldVxK_waits :
    let see (t : State) := (t.mode, t.latch, t.pc, t.effect)
    (after (start []) 0xF10A).map see = some (.awaitingKey, none, 0x200, some .wait) ∧
    (after { start [] with mode := .awaitingKey } 0xF10A).map see = some (.awaitingKey, none, 0x200, some .wait) ∧
    (after { start [] with latch := some 3 } 0xF10A).map see = some (.awaitingKey, some 3, 0x200, some .wait) ∧
    (after { start [] with latch := some 3, cfg := { defaultConfig with armClearsLatch := true } } 0xF10A).map see =
      some (.awaitingKey, none, 0x200, some .wait) := by
  dsimp only; and_intros <;> decide

/-- 2.5 rows 10, 13, 14, 15. -/
theorem test_ldVxK_delivers :
    let see (x : Reg) (t : State) := (t.getV x, t.mode, t.latch, t.pc, t.effect)
    let w := { start [] with mode := .awaitingKey }
    (after (w.keyPress 7) 0xF10A).map (see 1) = some (7, .running, none, 0x202, some .advance) ∧
    (after ((w.keyPress 4).keyPress 9) 0xF20A).map (see 2) = some (9, .running, none, 0x202, some .advance) ∧
    (after ((w.keyPress 4).keyRelease 4) 0xF20A).map (see 2) = some (4, .running, none, 0x202, some .advance) ∧
    (after (w.keyPress 12) 0xFF0A).map (see 15) = some (12, .running, none, 0x202, some .advance) := by
  dsimp only; and_intros <;> decide

/-- 2.5 rows 16 and 17. -/
theorem test_key_actions :
    let p := State.reset.keyPress 15
    (p.key.get 15, p.key.get 14, p.latch) = (true, false, some 15) ∧
    ((p.keyRelease 15).key.get 15, (p.keyRelease 15).latch) = (false, some 15) := by decide

/-! ### Timers (2.6) -/

/-- 2.6 rows 1 to 3. -/
theorem test_timer_copies :
    (after { start [] with dt := 0x0F } 0xF207).map (fun t => (t.getV 2, t.dt)) = some (0x0F, 0x0F) ∧
    (after (start [(0, 0x0F)]) 0xF015).map (fun t => (t.dt, t.st)) = some (0x0F, 0) ∧
    (after (start [(3, 0x02)]) 0xF318).map (fun t => (t.dt, t.st, t.soundOn)) = some (0, 0x02, true) := by decide

/-- 2.6 rows 4, 5, 6, 8, 9. -/
theorem test_tick :
    let see (s : State) := (s.tick.dt, s.tick.st, s.tick.soundOn)
    see { State.reset with dt := 2 } = (1, 0, false) ∧ see { State.reset with dt := 1, st := 1 } = (0, 0, false) ∧
    see State.reset = (0, 0, false) ∧ see { State.reset with dt := 5, mode := .awaitingKey } = (4, 0, false) ∧
    see { State.reset with dt := 5, halt := some (.stackUnderflow, 0x202) } = (5, 0, false) := by decide

/-- 2.6 rows 11 and 12, with the period 10 of `CLK_HZ` 600. -/
theorem test_clock_edge :
    let see (s : State) := ((s.clkEdgeAt 10).div, (s.clkEdgeAt 10).dt)
    see { State.reset with div := 8, dt := 3 } = (9, 3) ∧ see { State.reset with div := 9, dt := 3 } = (0, 2) := by decide

/-! ### Index register, font, BCD, bulk copies (2.7) -/

/-- 2.7 rows 1, 4, 5, 6. -/
theorem test_index_writes :
    (after (start []) 0xAFFF).map (fun t => t.i) = some 0x0FFF ∧
    (after { start [(0, 1)] with i := 0x0FFF } 0xF01E).map (fun t => (t.i, t.getV vf)) = some (0x1000, 0) ∧
    (after { start [(0, 1)] with i := 0xFFFF } 0xF01E).map (fun t => t.i) = some 0x0000 ∧
    (after { start [(0, 0xFF)] with i := 0xFF80 } 0xF01E).map (fun t => t.i) = some 0x007F := by decide

/-- 2.7 rows 9 to 11. -/
theorem test_ldFVx :
    [0x0F, 0x10, 0xFF].map (fun b => (after (start [(0, b)]) 0xF029).map fun t => t.i) =
      [some 0x004B, some 0x0050, some 0x04FB] := by decide

/-- 2.7 rows 12, 14, 15, 17. -/
theorem test_ldBVx :
    ([0xFE, 0xFF, 0x64, 0x80].map fun b => (after { start [(0, b)] with i := 0x300 } 0xF033).map fun t =>
        [t.ram.read 0x300, t.ram.read 0x301, t.ram.read 0x302]) =
      [some [2, 5, 4], some [2, 5, 5], some [1, 0, 0], some [1, 2, 8]] := by decide

/-- 2.7 rows 18 and 19: the last `I` that fits and the first that does not. -/
theorem test_ldBVx_bounds :
    (after { start [(0, 0xFE)] with i := 0x0FFD } 0xF033).map (fun t => (t.ram.read 0xFFF, t.halt)) = some (4, none) ∧
    (after { start [(0, 0xFE)] with i := 0x0FFE } 0xF033).map (fun t => (t.ram.read 0xFFE, t.halt)) =
      some (0, some (.outOfBoundsAccess, 0x1000)) := by decide

/-- 2.7 rows 20 and 31: `I` stays; the byte after the last is not written; the word just stored is fetched next. -/
theorem test_ldMemVx :
    (after { start [(0, 0x11), (1, 0x22), (2, 0x33)] with i := 0x400 } 0xF155).map
      (fun t => (t.ram.read 0x400, t.ram.read 0x401, t.ram.read 0x402, t.i)) = some (0x11, 0x22, 0, 0x400) ∧
    ((after { start [(0, 0x12), (1, 0x08)] with i := 0x202 } 0xF155).bind fun t => (nextOf (step t)).map fun u => u.pc) =
      some 0x208 := by decide

/-- 2.7 rows 23, 24, 26. -/
theorem test_ldMemVx_bounds :
    (after { start [(15, 0x0F)] with i := 0x0FF0 } 0xFF55).map (fun t => (t.ram.read 0xFFF, t.halt)) =
      some (0x0F, none) ∧
    (after { start [(0, 7)] with i := 0x0FF1 } 0xFF55).map (fun t => (t.ram.read 0xFF1, t.halt)) =
      some (0, some (.outOfBoundsAccess, 0x1000)) ∧
    ends { start [] with i := 0x1000 } 0xF055 = some (0x200, none, some (.outOfBoundsAccess, 0x1000)) := by decide

/-- 2.7 rows 27 and 28. -/
theorem test_ldVxMem :
    (after (withBytes 0x300 [2, 5, 4] { start [(3, 0x77)] with i := 0x300 }) 0xF265).map
      (fun t => ([t.getV 0, t.getV 1, t.getV 2, t.getV 3], t.i)) = some ([2, 5, 4, 0x77], 0x300) ∧
    (after (start []) 0xF465).map (fun t => [t.getV 0, t.getV 1, t.getV 2, t.getV 3, t.getV 4]) =
      some [0xF0, 0x90, 0x90, 0x90, 0xF0] := by decide

/-- 2.7 rows 29 and 30. -/
theorem test_ldVxMem_bounds :
    ends { start [] with i := 0x0FF8 } 0xF865 = some (0x200, none, some (.outOfBoundsAccess, 0x1000)) ∧
    ends { start [] with i := 0xFFFF } 0xF165 = some (0x200, none, some (.outOfBoundsAccess, 0xFFFF)) := by decide

/-! ### Errors, host actions, reset (2.8, 2.9) -/

/-- 2.8 rows 1 and 2. -/
theorem test_halted :
    let s := { State.reset with pc := 0x202, halt := some (.stackUnderflow, 0x202) }
    nextOf (step s) = some s ∧
    (nextOf (act (.keyPress 1) s)).map (fun t => (t.key.get 1, t.latch, t.halt)) = some (true, some 1, s.halt) := by
  decide

/-- 2.9 and 2.8 row 3. -/
theorem test_reset :
    let s := { start [(4, 9)] with pc := 0x345, halt := some (.stackUnderflow, 0x202) }
    (nextOf (act (.reset [0x12, 0x00] []) s)).map (fun t => (t.getV 4, t.pc, t.halt)) = some (0, 0x200, none) ∧
    (nextOf (act (.reset [0x12, 0x00] []) s)).map (fun t => [0x000, 0x001, 0x04B, 0x04C, 0x04F, 0x200, 0x201].map t.ram.read) =
      some [0xF0, 0x90, 0xF0, 0x80, 0x80, 0x12, 0x00] := by decide

/-- The agenda's first action is performed and taken off; `DIRTY` is acknowledged (60_exceptions.md R283). -/
theorem test_agenda :
    (nextOf (step { State.reset with agenda := [.tick, .fbAck], dt := 3 })).map (fun t => (t.dt, t.agenda)) =
      some (2, [.fbAck]) ∧
    (nextOf (step { State.reset with agenda := [.fbAck], dirty := true })).map (fun t => (t.dirty, t.agenda)) =
      some (false, []) := by decide

/-- `fb_read` at the last column and row, and its neighbour (60_exceptions.md R283). -/
theorem test_fbRead :
    let s := withLit [(31, 63)] State.reset
    s.fbRead ⟨63, by decide⟩ ⟨31, by decide⟩ = true ∧ s.fbRead ⟨62, by decide⟩ ⟨31, by decide⟩ = false := by decide

/-- The error codes of 60_exceptions.md R250. -/
theorem test_error_codes :
    [ErrorKind.outOfBoundsAccess, .stackUnderflow, .stackOverflow, .unknownInstruction].map ErrorKind.code =
      [1, 2, 3, 4] := by decide

/-- From reset, with the empty ROM, the first word is the Unknown 0x0000 (assumption 6). -/
theorem test_reset_step :
    (nextOf (step State.reset)).map (fun t => (t.pc, t.halt)) = some (0x200, some (.unknownInstruction, 0x0000)) := by
  decide

/-! ### Witnesses: for each obligation with hypotheses, states and operands that meet them all; several clauses, one
witness each, at the boundary of the clause's range -/

/-- The state in which the word `w` stands at `PC`. -/
def placed (s : State) (w : Nat) : State := s.withFetchWord 16 w

theorem witness_DecodeOfEncode : (Instr.jpV0 0xF00 15).wellFormed = true := by decide

theorem witness_EncodeOfDecode : decode 0xBF00 = .ok (.jpV0 0xF00 15) := by decide

/-- The last address a word can be fetched from; with an empty agenda and with a `Step` on it. -/
theorem witness_StepRunsDecodedInstruction :
    let s := placed { State.reset with pc := 0x0FFE } 0x6001
    let u := { s with agenda := [Action.step, .tick] }
    s.halt = none ∧ s.pc.toNat ≤ 0x0FFE ∧
    decode (wordOfBytes (s.ram.read s.pc.toNat) (s.ram.read (s.pc.toNat + 1))) = .ok (.ldImm 0 1) ∧ s.agenda = [] ∧
    u.halt = none ∧ u.pc.toNat ≤ 0x0FFE ∧
    decode (wordOfBytes (u.ram.read u.pc.toNat) (u.ram.read (u.pc.toNat + 1))) = .ok (.ldImm 0 1) ∧
    u.agenda = Action.step :: [.tick] := by
  dsimp only; and_intros <;> decide

theorem witness_AgendaHeadActs : { State.reset with agenda := [.tick, .fbAck] }.agenda = Action.tick :: [.fbAck] := rfl

/-- The two ways to fail: the second byte, and the first. -/
theorem witness_FetchBigEndianOrOutOfBounds :
    let s := { State.reset with pc := 0x0FFF }
    let u := { State.reset with pc := 0x1000 }
    s.halt = none ∧ s.agenda = [] ∧ 0x0FFE < s.pc.toNat ∧ u.halt = none ∧ u.agenda = [] ∧ 0x0FFF < u.pc.toNat := by
  decide

/-- Both settings of `UNKNOWN_FATAL`. -/
theorem witness_UnknownWordHaltsOrAdvances :
    let s := placed State.reset 0x5121
    let u := placed { State.reset with cfg := { defaultConfig with unknownFatal := false } } 0x5121
    s.halt = none ∧ s.agenda = [] ∧ s.fetch = .ok 0x5121 ∧ decode 0x5121 = .error .unknownOp5 ∧
    s.cfg.unknownFatal = true ∧ u.halt = none ∧ u.agenda = [] ∧ u.fetch = .ok 0x5121 ∧ u.cfg.unknownFatal = false := by
  dsimp only; and_intros <;> decide

/-- A step that fails (RET on an empty stack), and a step of the core so halted. -/
theorem witness_ErrorsWriteNothing :
    let s := placed State.reset 0x00EE
    ∃ t u, s.agenda = [] ∧ step s = .next t ∧ s.halt = none ∧ t.halt ≠ none ∧ t.agenda = [] ∧ step t = .next u :=
  ⟨_, _, rfl, rfl, rfl, by decide, rfl, rfl⟩

/-- A halted core whose next action is a `Tick`; and one whose next action is a `Step`. -/
theorem witness_HaltLastsUntilReset :
    let s := { State.reset with halt := some (.stackUnderflow, 0x202), agenda := [.tick] }
    let u := { s with agenda := [] }
    (∃ t, s.halt = some (.stackUnderflow, 0x202) ∧ (∀ rom launch rest, s.agenda ≠ Action.reset rom launch :: rest) ∧
      step s = .next t) ∧
    ∃ t, u.halt = some (.stackUnderflow, 0x202) ∧ (∀ rom launch rest, u.agenda ≠ Action.reset rom launch :: rest) ∧
      step u = .next t :=
  ⟨⟨_, rfl, (fun _ _ _ h => by injection h with h; cases h), rfl⟩, _, rfl, (fun _ _ _ h => by cases h), rfl⟩

/-- An instruction that fails and its error, for each of the four cases. -/
theorem witness_ErrorsRaisedByInstructions :
    let s := State.reset
    let full := { s with sp := 16 }
    let badKey := start [(1, 0x10)]
    let high := { s with i := 0x0FF1 }
    (∃ t, s.halt = none ∧ exec .ret s = .next t ∧ t.halt = some (.stackUnderflow, 0x200)) ∧
    (∃ t, full.halt = none ∧ exec (.call 0x300) full = .next t ∧ t.halt = some (.stackOverflow, 0x200)) ∧
    (∃ t, badKey.halt = none ∧ exec (.skp 1) badKey = .next t ∧ t.halt = some (.outOfBoundsAccess, 0x10)) ∧
    (∃ t, high.halt = none ∧ exec (.ldMemVx 15) high = .next t ∧ t.halt = some (.outOfBoundsAccess, 0x1000)) :=
  ⟨⟨_, rfl, rfl, rfl⟩, ⟨_, rfl, rfl, rfl⟩, ⟨_, rfl, rfl, rfl⟩, ⟨_, rfl, rfl, rfl⟩⟩

/-- The empty stack, one entry, and a full one. -/
theorem witness_ReturnPopsOrUnderflows :
    let one := { State.reset with sp := 1, stack := State.reset.stack.set 0 0x204 }
    let full := { State.reset with sp := 16, stack := State.reset.stack.set 15 0x302 }
    State.reset.sp = 0 ∧ (one.sp ≠ 0 ∧ one.stack[one.sp - 1]? = some 0x204) ∧
    (full.sp ≠ 0 ∧ full.stack[full.sp - 1]? = some 0x302) := by
  decide

/-- A full stack, and the last free slot. -/
theorem witness_CallPushesOrOverflows :
    let full := { State.reset with sp := 16 }
    let last := { State.reset with sp := 15 }
    full.stackOk ∧ full.sp = full.cfg.stackDepth ∧ last.stackOk ∧ last.sp < last.cfg.stackDepth := by
  decide

/-- A call, then a state that differs from the call's in a register. -/
theorem witness_ReturnUndoesCall :
    let s := { State.reset with sp := 15 }
    ∃ t u : State, s.stackOk ∧ s.sp < s.cfg.stackDepth ∧ exec (.call 0x300) s = .next t ∧ u.stack = t.stack ∧
      u.sp = t.sp ∧ u.getV 3 ≠ t.getV 3 := by
  refine ⟨_, State.setV _ 3 0xFF, by decide, by decide, rfl, rfl, rfl, by decide⟩

/-- Both settings of `LOGIC_RESET_VF`, and a destination that is and is not VF. -/
theorem witness_LogicWritesResultThenVF :
    State.reset.cfg.logicResetVF = false ∧ (resetting State.reset).cfg.logicResetVF = true ∧ (14 : Reg) ≠ vf ∧
    (15 : Reg) = vf := by
  decide

/-- A destination that is not VF, which the clauses on V[x] of the additions, subtractions and shifts ask. -/
theorem witness_AddRegisterSetsCarry : (14 : Reg) ≠ vf := by decide

theorem witness_SubtractsSetNotBorrow : (14 : Reg) ≠ vf := by decide

/-- Both settings of `SHIFT_SRC_Y`. -/
theorem witness_ShiftsMoveOneBit :
    let s := start [(1, 0x05), (2, 0x08)]
    (0x05 : Byte) = (if s.cfg.shiftSrcY then s.getV 2 else s.getV 1) ∧
    (0x08 : Byte) = (if (shiftingY s).cfg.shiftSrcY then (shiftingY s).getV 2 else (shiftingY s).getV 1) ∧
    (1 : Reg) ≠ vf := by
  decide

/-- The state for the draws: VF and three columns lit, five sprite bytes that end at the last address. -/
def sprite : State :=
  withBytes 0xFFB [0xF0, 0x90, 0x90, 0x90, 0xF0] (withLit [(31, 63)] { start [(0, 63), (1, 31)] with i := 0x0FFB })

/-- The sprite that ends at 0xFFF, and no rows at an `I` outside RAM; a targeted cell and one that is not. -/
theorem witness_DrawFlipsExactlyTargets :
    sprite.fbOk ∧ sprite.i.toNat + (5 : Nibble).toNat - 1 ≤ 0x0FFF ∧
    targeted sprite 0 1 5 31 63 ∧ targeted sprite 0 1 5 0 2 ∧ ¬ targeted { sprite with i := 0xFFFF } 0 1 0 31 63 := by
  refine ⟨by decide, by decide, ⟨0, 0, by decide⟩, ⟨1, 3, by decide⟩, ?_⟩
  rintro ⟨k, c, hk, -⟩
  exact absurd hk (Nat.not_lt_zero k)

/-- A lit targeted cell; and a framebuffer in which none is lit. -/
theorem witness_CollisionFlagExactly :
    let dark := { sprite with fb := Framebuffer.clear sprite.cfg }
    (sprite.fbOk ∧ sprite.i.toNat + (5 : Nibble).toNat - 1 ≤ 0x0FFF ∧
      ∃ row col, targeted sprite 0 1 5 row col ∧ sprite.fb.cell row col = true) ∧
    dark.fbOk ∧ ∀ row col, targeted dark 0 1 5 row col → dark.fb.cell row col = false := by
  refine ⟨⟨by decide, by decide, 31, 63, ⟨0, 0, by decide⟩, by decide⟩, by decide, ?_⟩
  intro row col _
  have h : ∀ r < 32, ∀ c < 64, (Framebuffer.clear sprite.cfg).cell r c = false := by decide
  rename_i ht
  obtain ⟨k, c, -, -, -, rfl, rfl⟩ := ht
  exact h _ (Nat.mod_lt _ (by decide)) _ (Nat.mod_lt _ (by decide))

/-- A first draw, and a state after it in which another register has changed; a targeted cell dark before the first. -/
theorem witness_DrawingTwiceRestores :
    ∃ t u : State, sprite.fbOk ∧ ((5 : Nibble) = 0 ∨ sprite.i.toNat + (5 : Nibble).toNat - 1 ≤ 0x0FFF) ∧
      exec (.drw 0 1 5) sprite = .next t ∧ u.fb = t.fb ∧ u.cfg = sprite.cfg ∧ u.i = sprite.i ∧
      u.getV 0 = sprite.getV 0 ∧ u.getV 1 = sprite.getV 1 ∧
      (∀ k < (5 : Nibble).toNat, u.ram.read (sprite.i.toNat + k) = sprite.ram.read (sprite.i.toNat + k)) ∧
      targeted sprite 0 1 5 0 2 ∧ sprite.fb.cell 0 2 = false :=
  ⟨_, State.setV _ 7 0xFF, by decide, by decide, rfl, rfl, rfl, rfl, by decide, by decide, fun _ _ => rfl,
    ⟨1, 3, by decide⟩, by decide⟩

/-- One set bit, in the last byte of RAM, over a lit cell. -/
def litDot : State :=
  withBytes 0xFFF [0x80] (withLit [(31, 63)] { start [(0, 63), (1, 31)] with i := 0x0FFF })

/-- The other clause: every targeted cell, and there is one, lit before the first draw. -/
theorem witness_DrawingTwiceRestores_lit :
    ∃ t u : State, litDot.fbOk ∧ ((1 : Nibble) = 0 ∨ litDot.i.toNat + (1 : Nibble).toNat - 1 ≤ 0x0FFF) ∧
      exec (.drw 0 1 1) litDot = .next t ∧ u.fb = t.fb ∧ u.cfg = litDot.cfg ∧ u.i = litDot.i ∧
      u.getV 0 = litDot.getV 0 ∧ u.getV 1 = litDot.getV 1 ∧
      (∀ k < (1 : Nibble).toNat, u.ram.read (litDot.i.toNat + k) = litDot.ram.read (litDot.i.toNat + k)) ∧
      targeted litDot 0 1 1 31 63 ∧ ∀ row col, targeted litDot 0 1 1 row col → litDot.fb.cell row col = true := by
  refine ⟨_, State.setV _ 7 0xFF, by decide, by decide, rfl, rfl, rfl, rfl, by decide, by decide, fun _ _ => rfl,
    ⟨0, 0, by decide⟩, ?_⟩
  rintro row col ⟨k, c, hk, hc, hbit, rfl, rfl⟩
  have h : ∀ k < (1 : Nibble).toNat, ∀ c < 8, (litDot.ram.read (litDot.i.toNat + k)).getLsbD (7 - c) = true →
      litDot.fb.cell (((litDot.getV 1).toNat + k) % litDot.cfg.fbH) (((litDot.getV 0).toNat + c) % litDot.cfg.fbW) =
        true := by decide
  exact h k hk c hc hbit

/-- The smallest `I` that does not fit. -/
theorem witness_DrawEdgeCases :
    let s := { State.reset with i := 0x0FFC }
    0 < (5 : Nibble).toNat ∧ 0x0FFF < s.i.toNat + (5 : Nibble).toNat - 1 := by
  decide

/-- The smallest index that is no key, and the largest that is one. -/
theorem witness_KeySkipsReadLevel :
    15 < ((start [(1, 16)]).getV 1).toNat ∧ ((start [(1, 15)]).getV 1).toNat = (15 : Key).val := by
  decide

theorem witness_KeyWaitProtocol :
    let poll := { State.reset with mode := .awaitingKey }
    let done := { poll with latch := some 15 }
    State.reset.mode = .running ∧ (poll.mode = .awaitingKey ∧ poll.latch = none) ∧
    (done.mode = .awaitingKey ∧ done.latch = some 15) := by
  decide

/-- A latched key: kept by a step, replaced by a press, cleared by a reset, delivered, discarded on arming. -/
theorem witness_LatchedKeyIsNotLost :
    let s := { placed State.reset 0x6001 with latch := some 3 }
    let w := { placed State.reset 0xF10A with latch := some 3 }
    let keep := { w with mode := .awaitingKey }
    let arm := { w with cfg := { defaultConfig with armClearsLatch := true } }
    (∃ t, s.latch = some 3 ∧ step s = .next t ∧ t.latch = some 3) ∧
    (∃ t, { s with agenda := [.keyPress 4] }.latch = some 3 ∧ step { s with agenda := [.keyPress 4] } = .next t ∧
      t.latch = some 4) ∧
    (∃ t, { s with agenda := [.reset [] []] }.latch = some 3 ∧ step { s with agenda := [.reset [] []] } = .next t ∧
      t.latch = none) ∧
    (∃ t, keep.latch = some 3 ∧ step keep = .next t ∧ t.latch = none) ∧
    (∃ t, arm.latch = some 3 ∧ step arm = .next t ∧ t.latch = none) :=
  ⟨⟨_, rfl, rfl, rfl⟩, ⟨_, rfl, rfl, rfl⟩, ⟨_, rfl, rfl, rfl⟩, ⟨_, rfl, rfl, rfl⟩, ⟨_, rfl, rfl, rfl⟩⟩

/-- The last `I` that fits, and the first that does not. -/
theorem witness_BcdDigitsStored :
    let s := { State.reset with i := 0x0FFD }
    let u := { State.reset with i := 0x0FFE }
    (s.ramOk ∧ s.i.toNat + 2 ≤ 0x0FFF) ∧ (u.ramOk ∧ 0x0FFF < u.i.toNat + 2) := by
  decide

theorem witness_RegisterDumpStores :
    let s := { State.reset with i := 0x0FF0 }
    let u := { State.reset with i := 0x0FF1 }
    (s.ramOk ∧ s.i.toNat + (15 : Reg).val ≤ 0x0FFF) ∧ (u.ramOk ∧ 0x0FFF < u.i.toNat + (15 : Reg).val) := by
  decide

theorem witness_RegisterLoadReads :
    let s := { State.reset with i := 0x0FF0 }
    let u := { State.reset with i := 0x0FF1 }
    s.i.toNat + (15 : Reg).val ≤ 0x0FFF ∧ 0x0FFF < u.i.toNat + (15 : Reg).val := by
  decide

/-- A dump of sixteen registers at the last `I` that fits, then a register changed. -/
theorem witness_LoadUndoesDump :
    let s := { start [(3, 7)] with i := 0x0FF0 }
    ∃ t u : State, s.ramOk ∧ s.i.toNat + (15 : Reg).val ≤ 0x0FFF ∧ exec (.ldMemVx 15) s = .next t ∧ u.ram = t.ram ∧
      u.i = s.i ∧ u.getV 3 ≠ s.getV 3 :=
  ⟨_, State.setV _ 3 0xFF, by decide, by decide, rfl, rfl, rfl, by decide⟩

/-- Each family of the frames: an instruction of it that ends in a next state. -/
theorem witness_ControlFlowFrame : ∃ t, familyOf (.call 0x300) = .control ∧ exec (.call 0x300) State.reset = .next t :=
  ⟨_, rfl, rfl⟩

theorem witness_AluFrame : ∃ t, familyOf (.addReg 1 2) = .alu ∧ exec (.addReg 1 2) (start [(1, 0xFF), (2, 1)]) = .next t :=
  ⟨_, rfl, rfl⟩

theorem witness_DisplayFrame : ∃ t, familyOf (.drw 0 1 5) = .display ∧ exec (.drw 0 1 5) sprite = .next t :=
  ⟨_, rfl, rfl⟩

theorem witness_KeypadFrame : ∃ t, familyOf (.ldVxK 1) = .keypad ∧ exec (.ldVxK 1) State.reset = .next t :=
  ⟨_, rfl, rfl⟩

/-- A storing form; an address below the stored bytes and the first one above them. -/
theorem witness_TimerIndexMemoryFrame :
    let s := { State.reset with i := 0x0300 }
    ∃ t, familyOf (.ldMemVx 1) = .timerIndexMemory ∧ exec (.ldMemVx 1) s = .next t ∧ 0x2FF < s.i.toNat ∧
      s.i.toNat + storedCount (.ldMemVx 1) ≤ 0x302 :=
  ⟨_, rfl, rfl, by decide, by decide⟩

theorem witness_TickCountsDown :
    { State.reset with halt := some (.stackUnderflow, 0x202) }.halt ≠ none ∧ State.reset.halt = none := by
  decide

/-- The last count of the divider, and one that is not the last. -/
theorem witness_ClockEdgeDivides :
    { State.reset with div := clkHz / 60 - 1 }.div = clkHz / 60 - 1 ∧
    { State.reset with div := clkHz / 60 }.div ≠ clkHz / 60 - 1 := by
  have h : clkHz / 60 = Config.clkMultiple + 1 := clkHz_div_tickHz
  refine ⟨rfl, fun hd => ?_⟩
  change clkHz / 60 = clkHz / 60 - 1 at hd
  omega

/-- The first and the last count in range. -/
theorem witness_DividerTicksOncePerPeriod :
    State.reset.divOk ∧ { State.reset with div := clkHz / tickHz - 1 }.divOk := by
  have h := clkHz_div_tickHz
  constructor
  · show 0 < clkHz / tickHz
    omega
  · show clkHz / tickHz - 1 < clkHz / tickHz
    omega

/-- The key pressed, and another one. -/
theorem witness_HostActionsWriteTheirPorts : (15 : Key) = 15 ∧ (14 : Key) ≠ 15 := by decide

/-- The longest ROM and the shortest that is too long; a byte of font, of ROM, and of neither. -/
theorem witness_ResetLoadsFontAndRom :
    3584 < (List.replicate 3585 (0 : Byte)).length ∧
    (List.replicate 3584 (0 : Byte)).length ≤ 3584 ∧ 79 < State.reset.cfg.font.length ∧
    3583 < (List.replicate 3584 (0 : Byte)).length ∧ 80 ≤ 0x1FF ∧ 0x1FF < 0x200 ∧
    0x200 + ([] : List Byte).length ≤ 0x200 := by
  simp only [List.length_replicate]; decide

/-- A state other than reset's that meets the invariant: a held key, a latched press and two actions to come. -/
theorem witness_Inv_busy : { State.reset.keyPress 3 with agenda := [.tick, .step] }.Inv where
  ram := by decide
  stack := by decide
  slots := by intro a ha; rw [List.eq_of_mem_replicate ha]; decide
  pc := by simp [State.pcOk, State.keyPress, State.reset, State.fresh, progBase]
  fb := Framebuffer.clear_shaped defaultConfig
  div := by have h := clkHz_div_tickHz; show 0 < clkHz / tickHz; omega
  wait := by intro h; cases h

theorem witness_EveryStepKeepsInvariant : ∃ s t, s.Inv ∧ step s = .next t := ⟨_, _, witness_Inv_busy, rfl⟩

theorem witness_InvariantStepsAnswerNext : ∃ s : State, s.Inv := ⟨_, witness_Inv_busy⟩

theorem witness_ConfigurationNeverChanges : ∃ s t, step s = .next t := ⟨State.reset, _, rfl⟩

/-- A `CLS`, and a reset, that change the framebuffer. -/
theorem witness_FramebufferWriters :
    let s := placed sprite 0x00E0
    let u := { s with agenda := [.reset [] []] }
    (∃ t, step s = .next t ∧ t.fb ≠ s.fb) ∧ ∃ t, step u = .next t ∧ t.fb ≠ u.fb :=
  ⟨⟨_, rfl, by decide⟩, _, rfl, by decide⟩

/-- `LD B,Vx` and `LD [I],Vx` each change the last byte they store. -/
theorem witness_RamWriters :
    let b := placed { start [(0, 0xFE)] with i := 0x300 } 0xF033
    let d := placed { start [(1, 0xFE)] with i := 0x300 } 0xF155
    (∃ t, step b = .next t ∧ t.ram.read 0x302 ≠ b.ram.read 0x302) ∧
    ∃ t, step d = .next t ∧ t.ram.read 0x301 ≠ d.ram.read 0x301 :=
  ⟨⟨_, rfl, by decide⟩, _, rfl, by decide⟩

/-- A `Tick`, and the two timer writes. -/
theorem witness_TimerWriters :
    let k := { State.reset with dt := 1, agenda := [.tick] }
    let d := placed (start [(0, 9)]) 0xF015
    let n := placed (start [(0, 9)]) 0xF018
    (∃ t, step k = .next t ∧ (t.dt ≠ k.dt ∨ t.st ≠ k.st)) ∧ (∃ t, step d = .next t ∧ (t.dt ≠ d.dt ∨ t.st ≠ d.st)) ∧
    ∃ t, step n = .next t ∧ (t.dt ≠ n.dt ∨ t.st ≠ n.st) :=
  ⟨⟨_, rfl, by decide⟩, ⟨_, rfl, by decide⟩, _, rfl, by decide⟩

/-- The arming step, and a poll that finds nothing. -/
theorem witness_WaitingLeavesPc :
    let s := placed State.reset 0xF10A
    let u := { s with mode := .awaitingKey }
    (∃ t, s.agenda = [] ∧ s.halt = none ∧ s.waitOk ∧ step s = .next t ∧ t.mode = .awaitingKey) ∧
    ∃ t, u.agenda = [] ∧ u.halt = none ∧ u.waitOk ∧ step u = .next t ∧ t.mode = .awaitingKey :=
  ⟨⟨_, rfl, rfl, (fun h => by cases h), rfl, rfl⟩, _, rfl, rfl, fun _ => ⟨0xF10A, 1, by decide, by decide⟩, rfl, rfl⟩

/-- The last instruction that has room for another one behind it. -/
theorem witness_StoredCodeIsFetched :
    let s := { start [(0, 0x12), (1, 0x08)] with pc := 0x0FFC, i := 0x0FFE }
    ∃ t, s.ramOk ∧ s.pc.toNat + 4 ≤ 0x1000 ∧ s.i = s.pc + 2 ∧ 1 ≤ (1 : Reg).val ∧ s.i.toNat + (1 : Reg).val ≤ 0x0FFF ∧
      exec (.ldMemVx 1) s = .next t :=
  ⟨_, by decide, by decide, by decide, by decide, by decide, rfl⟩

/-- 2.2 row 23: the word 0x1200 at 0x200. -/
theorem witness_EndedRunStaysEnded :
    let s := placed State.reset 0x1200
    s.ended = true ∧ s.agenda = [] := by
  decide

end Sys2Proof.Tests
end

section
/-! PROOFS. The agenda and the configuration (00_scope.md R7, R10, R11): what an instruction never writes, said once
for all of `exec`, and the two statements about `step`. -/

namespace Sys2Proof.Machine

/-! ### What an instruction does before its effect is applied -/

/-- The elements no instruction writes itself: `PC`, the stack, the effect and the event change only when the step ends
(`complete`), `HALT` only by an error (`raise`), and the others only by actions of other agents, or never. -/
structure State.SameOutsideWrites (s u : State) : Prop where
  cfg : u.cfg = s.cfg
  pc : u.pc = s.pc
  stack : u.stack = s.stack
  sp : u.sp = s.sp
  div : u.div = s.div
  key : u.key = s.key
  halt : u.halt = s.halt
  effect : u.effect = s.effect
  unknownEvent : u.unknownEvent = s.unknownEvent
  agenda : u.agenda = s.agenda

theorem State.SameOutsideWrites.refl (s : State) : s.SameOutsideWrites s := by constructor <;> rfl

/-- The outcome raises an error on `s` itself, or completes from a state `s` became by an instruction's own writes. -/
def RaisesOrCompletes (s : State) (o : Host.Outcome State Fault Refusal) : Prop :=
  (∃ k info, o = raise k info s) ∨ ∃ e u, s.SameOutsideWrites u ∧ o = complete e u

theorem RaisesOrCompletes.of_raise (s : State) (k : ErrorKind) (info : Word) :
    RaisesOrCompletes s (raise k info s) := .inl ⟨k, info, rfl⟩

theorem RaisesOrCompletes.of_complete {s u : State} (e : Effect) (h : s.SameOutsideWrites u) :
    RaisesOrCompletes s (complete e u) := .inr ⟨e, u, h, rfl⟩

theorem RaisesOrCompletes.of_skipIf (s : State) (b : Bool) : RaisesOrCompletes s (skipIf b s) :=
  .of_complete _ (.refl s)

theorem execLdVxK_raisesOrCompletes (x : Reg) (s : State) : RaisesOrCompletes s (execLdVxK x s) := by
  unfold execLdVxK
  split
  · exact .of_complete .wait (by constructor <;> rfl)
  · split
    · exact .of_complete .wait (.refl s)
    · exact .of_complete .advance (by constructor <;> rfl)

/-- A logic instruction's write of V[x] and of the flag. -/
theorem State.SameOutsideWrites.setV_logicFlag (s : State) (x : Reg) (b : Byte) :
    s.SameOutsideWrites (s.setV x b).logicFlag := by
  constructor <;> simp

/-- Every instruction raises an error on the state it found, or completes after its own writes (40_control_flow.md R121,
60_exceptions.md R256). -/
theorem exec_raisesOrCompletes (i : Instr) (s : State) : RaisesOrCompletes s (exec i s) := by
  cases i with
  | ret | call =>
    simp only [exec, execRet, execCall]
    split
    · exact .of_raise ..
    · exact .of_complete _ (.refl s)
  | skp | sknp =>
    simp only [exec, execSkp, execSknp]
    split
    · exact .of_raise ..
    · exact .of_skipIf ..
  | drw | ldBVx | ldMemVx | ldVxMem =>
    simp only [exec, execDrw, execLdBVx, execLdMemVx, execLdVxMem]
    split
    · exact .of_raise ..
    · exact .of_complete .advance (by constructor <;> rfl)
  | ldVxK x => exact execLdVxK_raisesOrCompletes x s
  | seImm | sneImm | seReg | sneReg => exact .of_skipIf ..
  | orReg | andReg | xorReg => exact .of_complete .advance (.setV_logicFlag ..)
  | jp | jpV0 => exact .of_complete (.jump _) (.refl s)
  | _ => exact .of_complete .advance (by constructor <;> rfl)

/-! ### How a step ends -/

/-- The state a completed step leaves: the stack, its pointer, `PC` and the report may be new, nothing else is. -/
theorem complete_next_finish {e : Effect} {s t : State} (h : complete e s = .next t) :
    ∃ stack sp pc, t = State.finish { s with stack := stack, sp := sp } pc e := by
  obtain ⟨rfl, rfl⟩ | ⟨a, rfl, rfl⟩ | ⟨a, rfl, -, rfl⟩ | ⟨a, rfl, -, rfl⟩ | ⟨rfl, rfl⟩ | ⟨rfl, rfl⟩ := complete_next h <;>
    exact ⟨_, _, _, rfl⟩

/-- Both settings of `UNKNOWN_FATAL` (30_encoding.md R99). -/
theorem unknownWord_next {w : Word} {s t : State} (h : unknownWord w s = .next t) :
    (s.cfg.unknownFatal = true ∧ t = { s.halted .unknownInstruction w with unknownEvent := some w }) ∨
    (s.cfg.unknownFatal = false ∧ t = { s.finish (s.pc + 2) .advance with unknownEvent := some w }) := by
  unfold unknownWord at h
  split at h <;> simp_all

/-! ### The configuration (00_scope.md R7) -/

theorem exec_next_cfg {i : Instr} {s t : State} (h : exec i s = .next t) : t.cfg = s.cfg := by
  obtain ⟨k, info, hraise⟩ | ⟨e, u, hu, hcomplete⟩ := exec_raisesOrCompletes i s
  · obtain rfl : s.halted k info = t := by simpa [hraise] using h
    rfl
  · obtain ⟨stack, sp, pc, rfl⟩ := complete_next_finish (hcomplete.symm.trans h)
    exact hu.cfg

theorem engineStep_next_cfg {s t : State} (h : engineStep s = .next t) : t.cfg = s.cfg := by
  obtain ⟨-, hs⟩ | ⟨-, info, -, hs⟩ | ⟨-, w, i, -, -, hs⟩ | ⟨-, w, r, -, -, hs⟩ := engineStep_cases s <;> rw [hs] at h
  · cases h; rfl
  · cases h; rfl
  · exact exec_next_cfg h
  · obtain ⟨-, rfl⟩ | ⟨-, rfl⟩ := unknownWord_next h <;> rfl

@[simp] theorem State.tick_cfg (s : State) : s.tick.cfg = s.cfg := by
  unfold State.tick; split <;> rfl

@[simp] theorem State.clkEdge_cfg (s : State) : s.clkEdge.cfg = s.cfg := by
  unfold State.clkEdge State.clkEdgeAt; split <;> simp

theorem act_next_cfg {a : Action} {s t : State} (h : act a s = .next t) : t.cfg = s.cfg := by
  obtain ⟨-, hstep⟩ | ⟨-, rfl⟩ | ⟨-, rfl⟩ | ⟨k, -, rfl⟩ | ⟨k, -, rfl⟩ | ⟨-, rfl⟩ | ⟨rom, launch, -, -, rfl⟩ := act_next h
  · exact engineStep_next_cfg hstep
  · exact s.clkEdge_cfg
  · exact s.tick_cfg
  all_goals rfl

/-! ### The obligations -/

/-- Settles O54: every action of every agent, `Reset` included, hands the parameters on. -/
theorem configurationNeverChanges : Obligations.ConfigurationNeverChanges := by
  intro s t h
  obtain ⟨-, hs⟩ | ⟨a, rest, -, hs⟩ := step_cases s <;> rw [hs] at h
  · exact engineStep_next_cfg h
  · exact (act_next_cfg h).trans rfl

/-- Settles O7: of the two cases of a step, a non-empty agenda leaves the second. -/
theorem agendaHeadActs : Obligations.AgendaHeadActs := by
  intro s a rest h
  obtain ⟨hnil, -⟩ | ⟨b, rest', hcons, hs⟩ := step_cases s
  · rw [h] at hnil; cases hnil
  · obtain ⟨rfl, rfl⟩ := List.cons.inj (h.symm.trans hcons)
    exact hs

end Sys2Proof.Machine
end

section
/-! PROOFS. Frames (10_state.md R20, R22): what every instruction leaves unchanged, said once for all of `exec`, and the
five statements about the families of the opcode table. -/

namespace Sys2Proof.Machine

/-! ### A frame is closed under the writes the instruction may make -/

theorem Frame.refl (i : Instr) (s : State) : Frame i s s where
  regs _ _ := rfl
  index _ _ _ := rfl
  slots _ := rfl
  sp _ _ := rfl
  dt _ := rfl
  st _ := rfl
  ram _ _ := rfl
  display _ _ := ⟨rfl, rfl⟩
  wait _ := ⟨rfl, rfl⟩
  halt _ := rfl
  never := ⟨rfl, rfl, rfl⟩
  own := ⟨rfl, fun _ => rfl⟩

section
variable {i : Instr} {s u : State} (h : Frame i s u)
include h

theorem Frame.finish (pc : Word) (e : Effect) : Frame i s (u.finish pc e) := { h with }

/-- A write of a register in R22's column "writes". -/
theorem Frame.setV {x : Reg} (hx : x ∈ writtenRegs s.cfg i) (b : Byte) : Frame i s (u.setV x b) :=
  { h with
    regs := fun r hr => (u.getV_setV_ne x r b (fun e => hr (e ▸ hx))).trans (h.regs r hr) }

theorem Frame.setVF (hvf : vf ∈ writtenRegs s.cfg i) (b : Bool) : Frame i s (u.setVF b) := h.setV hvf _

/-- VF after a logic instruction: written under `LOGIC_RESET_VF` alone. -/
theorem Frame.logicFlag (hvf : s.cfg.logicResetVF = true → vf ∈ writtenRegs s.cfg i) : Frame i s u.logicFlag := by
  unfold State.logicFlag
  split
  · exact h.setVF (hvf (h.never.1 ▸ ‹_›)) _
  · exact h

end

/-- An error of an instruction that can raise one. -/
theorem Frame.halted {i : Instr} (hi : canRaise i = true) (s : State) (k : ErrorKind) (info : Word) :
    Frame i s (s.halted k info) :=
  { Frame.refl i s with halt := fun hn => absurd hi (by simp [hn]) }

/-! ### From the writes to the outcome -/

/-- If the outcome is a next state, that state keeps the instruction's frame. -/
def Framed (i : Instr) (s : State) (o : Host.Outcome State Fault Refusal) : Prop := ∀ t, o = .next t → Frame i s t

theorem Framed.raise {i : Instr} (hi : canRaise i = true) (s : State) (k : ErrorKind) (info : Word) :
    Framed i s (raise k info s) := by
  rintro t ⟨⟩
  exact .halted hi s k info

/-- The effect moves the stack only for Call and Return, which are `CALL`'s and `RET`'s (40_control_flow.md R122). -/
theorem Framed.complete {i : Instr} {s u : State} (h : Frame i s u) (e : Effect)
    (hcall : ∀ a, e = .call a → ∃ nnn, i = .call nnn) (hret : e = .ret → i = .ret) : Framed i s (complete e u) := by
  intro t ht
  obtain ⟨-, rfl⟩ | ⟨a, -, rfl⟩ | ⟨a, he, -, rfl⟩ | ⟨a, he, -, rfl⟩ | ⟨-, rfl⟩ | ⟨-, rfl⟩ := complete_next ht
  case inr.inr.inl =>
    obtain ⟨nnn, rfl⟩ := hcall a he
    exact { h.finish a (.call a) with
      slots := fun hn => absurd rfl (hn nnn)
      sp := fun hn => absurd rfl (hn nnn) }
  case inr.inr.inr.inl =>
    exact { h.finish a .ret with sp := fun _ hn => absurd (hret he) hn }
  all_goals exact h.finish _ _

theorem Framed.advance {i : Instr} {s u : State} (h : Frame i s u) : Framed i s (Machine.complete .advance u) :=
  .complete h _ (by simp) (by simp)

theorem Framed.skipIf (i : Instr) (s : State) (b : Bool) : Framed i s (skipIf b s) :=
  .complete (.refl i s) _ (by cases b <;> simp) (by cases b <;> simp)

/-! ### The instructions -/

/-- What a logic instruction does: V[x], and VF under `LOGIC_RESET_VF` (41_alu.md R153 to R155). -/
theorem Framed.logic {i : Instr} {x : Reg} (s : State) (b : Byte)
    (hi : writtenRegs s.cfg i = if s.cfg.logicResetVF then [x, vf] else [x]) :
    Framed i s (Machine.complete .advance (s.setV x b).logicFlag) := by
  refine .advance (((Frame.refl i s).setV ?_ b).logicFlag fun hq => ?_)
  · rw [hi]; split <;> simp
  · simp [hi, hq]

/-- What an arithmetic instruction or a shift does: V[x], then VF (41_alu.md R157 to R161). -/
theorem Framed.arith {i : Instr} {x : Reg} (s : State) (b : Byte) (flag : Bool) (hi : writtenRegs s.cfg i = [x, vf]) :
    Framed i s (Machine.complete .advance ((s.setV x b).setVF flag)) :=
  .advance (((Frame.refl i s).setV (by simp [hi]) b).setVF (by simp [hi]) flag)

theorem execLdVxK_framed (x : Reg) (s : State) : Framed (.ldVxK x) s (execLdVxK x s) := by
  have hwait (l : Option Key) (m : Mode) : Frame (.ldVxK x) s { s with latch := l, mode := m } :=
    { Frame.refl (.ldVxK x) s with wait := fun hn => absurd rfl (hn x) }
  unfold execLdVxK
  split
  · exact .complete (hwait _ _) .wait (by simp) (by simp)
  · split
    · exact .complete (.refl ..) .wait (by simp) (by simp)
    · exact .advance ((hwait none .running).setV (by simp [writtenRegs]) _)

theorem execDrw_framed (x y : Reg) (n : Nibble) (s : State) : Framed (.drw x y n) s (execDrw x y n s) := by
  unfold execDrw
  split
  · exact .raise rfl s _ _
  · refine .advance (Frame.setVF ?_ (by simp [writtenRegs]) _)
    exact { Frame.refl (.drw x y n) s with display := fun _ hn => absurd rfl (hn x y n) }

/-- A store of as many bytes as `storedCount` says, from `I` on (20_memory.md R72). -/
theorem Frame.writeBytes {i : Instr} (s : State) (bytes : List Byte) (hi : storedCount i = bytes.length) :
    Frame i s { s with ram := s.ram.writeBytes s.i.toNat bytes } :=
  { Frame.refl i s with ram := fun a ha => s.ram.read_writeBytes_out _ _ a (hi ▸ ha) }

/-- A bulk load writes V0 to Vx (10_state.md R22). -/
theorem Frame.loadRegs (x : Reg) (s : State) :
    Frame (.ldVxMem x) s { s with v := loadRegs s.ram s.i.toNat s.v (x.val + 1) } :=
  { Frame.refl (.ldVxMem x) s with
    regs := fun r hr => by
      have hlt : ¬ r.val < x.val + 1 := by
        intro hlt
        exact hr (List.mem_filter.mpr ⟨List.mem_finRange r, decide_eq_true (Nat.le_of_lt_succ hlt)⟩)
      exact (loadRegs_get ..).trans (if_neg hlt) }

/-- Every instruction that answers a next state keeps its frame. -/
theorem exec_framed (i : Instr) (s : State) : Framed i s (exec i s) := by
  cases i with
  | ret | call =>
    simp only [exec, execRet, execCall]
    split
    · exact .raise rfl s _ _
    · exact .complete (.refl ..) _ (by simp) (by simp)
  | jp | jpV0 => exact .complete (.refl ..) (.jump _) (by simp) (by simp)
  | seImm | sneImm | seReg | sneReg => exact .skipIf _ s _
  | skp | sknp =>
    simp only [exec, execSkp, execSknp]
    split
    · exact .raise rfl s _ _
    · exact .skipIf _ s _
  | ldImm | addImm | ldReg | ldVxDt => exact .advance ((Frame.refl ..).setV (by simp [writtenRegs]) _)
  | orReg | andReg | xorReg => exact .logic s _ rfl
  | addReg | subReg | subnReg | shr | shl => exact .arith s _ _ rfl
  | rnd x nn =>
    refine .advance (Frame.setV (u := { s with draws := s.draws + 1 }) ?_ (by simp [writtenRegs]) _)
    exact { Frame.refl (.rnd x nn) s with own := ⟨rfl, fun hn => absurd rfl (hn x nn)⟩ }
  | cls => exact .advance { Frame.refl .cls s with display := fun hn => absurd rfl hn }
  | drw x y n => exact execDrw_framed x y n s
  | ldVxK x => exact execLdVxK_framed x s
  | ldDtVx x => exact .advance { Frame.refl (.ldDtVx x) s with dt := fun hn => absurd rfl (hn x) }
  | ldStVx x => exact .advance { Frame.refl (.ldStVx x) s with st := fun hn => absurd rfl (hn x) }
  | ldI nnn => exact .advance { Frame.refl (.ldI nnn) s with index := fun hn => absurd rfl (hn nnn) }
  | addIVx x => exact .advance { Frame.refl (.addIVx x) s with index := fun _ hn => absurd rfl (hn x) }
  | ldFVx x => exact .advance { Frame.refl (.ldFVx x) s with index := fun _ _ hn => absurd rfl (hn x) }
  | ldBVx | ldMemVx =>
    simp only [exec, execLdBVx, execLdMemVx]
    split
    · exact .raise rfl s _ _
    · exact .advance (.writeBytes s _ (by simp [storedCount]))
  | ldVxMem x =>
    simp only [exec, execLdVxMem]
    split
    · exact .raise rfl s _ _
    · exact .advance (.loadRegs x s)

/-! ### The obligations -/

/-- Settles O40: `exec_framed`, for the eight instructions of 40_control_flow.md. -/
theorem controlFlowFrame : Obligations.ControlFlowFrame := fun i s t _ h => exec_framed i s t h

/-- Settles O41: `exec_framed`, for the twelve instructions of 41_alu.md. -/
theorem aluFrame : Obligations.AluFrame := fun i s t _ h => exec_framed i s t h

/-- Settles O42: `exec_framed`, for `CLS` and `DRW`. -/
theorem displayFrame : Obligations.DisplayFrame := fun i s t _ h => exec_framed i s t h

/-- Settles O43: `exec_framed`, for the three instructions of 43_keypad.md. -/
theorem keypadFrame : Obligations.KeypadFrame := fun i s t _ h => exec_framed i s t h

/-- Settles O44: `exec_framed`, for the nine instructions of 44_timer_index_memory.md. -/
theorem timerIndexMemoryFrame : Obligations.TimerIndexMemoryFrame := fun i s t _ h => exec_framed i s t h

end Sys2Proof.Machine
end

section
/-! PROOFS. What one step of the machine can do, and the statements about one step of any agent: a halt lasts
(60_exceptions.md R256), a latched key is not lost (43_keypad.md R202, R205), who writes the timers (10_state.md R30),
and `PC` while waiting (10_state.md R39); and that a return undoes a call (40_control_flow.md R125, R127). -/

namespace Sys2Proof.Machine

/-! ### One action of one agent -/

/-- The state the next action is performed on: the head of the agenda is taken off. -/
def State.popAgenda (s : State) : State := { s with agenda := s.agenda.tail }

/-- One step is one action: the head of the agenda, or a `Step` when there is none. -/
theorem step_eq_act (s : State) : step s = act (s.agenda.headD .step) s.popAgenda := by
  obtain ⟨hnil, hs⟩ | ⟨a, rest, hcons, hs⟩ := step_cases s <;> rw [hs]
  · have hpop : s.popAgenda = s := by rw [State.popAgenda, hnil, List.tail_nil, ← hnil]
    rw [hpop, hnil]; rfl
  · rw [State.popAgenda, hcons]; rfl

/-- An action other than a `Step` was on the agenda. -/
theorem agenda_eq_cons {l : List Action} {a : Action} (h : l.headD .step = a) (ha : a ≠ .step) :
    l = a :: l.tail := by
  cases l with
  | nil => exact absurd h.symm ha
  | cons b rest => rw [← h]; rfl

/-- A tick writes the timers and nothing else. -/
theorem tick_writes_timers (s : State) : ∃ dt st, s.tick = { s with dt := dt, st := st } := by
  unfold State.tick
  split
  · exact ⟨s.dt, s.st, rfl⟩
  · exact ⟨_, _, rfl⟩

/-- A clock edge wraps the divider and ticks, or counts (60_exceptions.md R273). -/
theorem clkEdge_cases (s : State) :
    (s.div = clkHz / tickHz - 1 ∧ s.clkEdge = State.tick { s with div := 0 }) ∨
    (s.div ≠ clkHz / tickHz - 1 ∧ s.clkEdge = { s with div := s.div + 1 }) := by
  unfold State.clkEdge State.clkEdgeAt
  split
  · exact .inl ⟨‹_›, rfl⟩
  · exact .inr ⟨‹_›, rfl⟩

/-- A clock edge writes the divider and the timers and nothing else. -/
theorem clkEdge_writes_timers (s : State) : ∃ d dt st, s.clkEdge = { s with div := d, dt := dt, st := st } := by
  obtain ⟨-, h⟩ | ⟨-, h⟩ := clkEdge_cases s <;> rw [h]
  · obtain ⟨dt, st, ht⟩ := tick_writes_timers { s with div := 0 }
    exact ⟨0, dt, st, ht⟩
  · exact ⟨_, s.dt, s.st, rfl⟩

/-- While halted a clock edge counts and does no more (assumption 9). -/
theorem clkEdge_halted (s : State) (h : s.halt ≠ none) : ∃ d, s.clkEdge = { s with div := d } := by
  obtain ⟨-, hs⟩ | ⟨-, hs⟩ := clkEdge_cases s <;> rw [hs]
  · exact ⟨0, tick_halted _ h⟩
  · exact ⟨_, rfl⟩

/-! ### A `Step` of the Engine -/

/-- Everything an `LD Vx,K` can do (43_keypad.md R203): arm, poll with no key, or take the latched key. -/
theorem execLdVxK_next {x : Reg} {s t : State} (h : exec (.ldVxK x) s = .next t) :
    (s.mode = .running ∧ t = State.finish
      { s with latch := if s.cfg.armClearsLatch then none else s.latch, mode := .awaitingKey } s.pc .wait) ∨
    (s.mode = .awaitingKey ∧ s.latch = none ∧ t = s.finish s.pc .wait) ∨
    (∃ k, s.mode = .awaitingKey ∧ s.latch = some k ∧ t = State.finish
      (State.setV { s with latch := none, mode := .running } x (BitVec.ofNat 8 k.val)) (s.pc + 2) .advance) := by
  simp only [exec, execLdVxK] at h
  cases hm : s.mode <;> cases hl : s.latch <;> simp_all

/-- An Unknown word leaves everything but `PC`, `HALT` and the report (30_encoding.md R99). -/
theorem unknownWord_next_same {w : Word} {s t : State} (h : unknownWord w s = .next t) :
    t = { s with pc := t.pc, halt := t.halt, effect := t.effect, unknownEvent := t.unknownEvent } := by
  obtain ⟨-, rfl⟩ | ⟨-, rfl⟩ := unknownWord_next h <;> rfl

/-- A halted core's `Step` does nothing (40_control_flow.md R123). -/
theorem engineStep_halted {s t : State} (hh : s.halt ≠ none) (h : engineStep s = .next t) : t = s := by
  rw [engineStep, if_pos (Option.isSome_iff_ne_none.mpr hh)] at h
  exact (Host.Outcome.next.inj h).symm

/-- While halted a `Step` and a tick do nothing, a clock edge counts, and the host writes `KEY`, `LATCH` and `DIRTY`
(60_exceptions.md R256, 95_test_vectors.md 2.8 row 2). -/
theorem act_halted {a : Action} {s t : State} (hh : s.halt ≠ none) (hreset : ∀ rom launch, a ≠ .reset rom launch)
    (h : act a s = .next t) : t = { s with div := t.div, key := t.key, latch := t.latch, dirty := t.dirty } := by
  obtain ⟨-, hs⟩ | ⟨-, rfl⟩ | ⟨-, rfl⟩ | ⟨k, -, rfl⟩ | ⟨k, -, rfl⟩ | ⟨-, rfl⟩ | ⟨rom, launch, ha, -⟩ := act_next h
  · rw [engineStep_halted hh hs]
  · obtain ⟨d, hd⟩ := clkEdge_halted s hh
    rw [hd]
  · rw [tick_halted s hh]
  · rfl
  · rfl
  · rfl
  · exact absurd ha (hreset rom launch)

/-- A `Step` executes the instruction fetched, or leaves everything but `PC`, `HALT` and the report. -/
theorem engineStep_next {s t : State} (h : engineStep s = .next t) :
    (s.halt = none ∧ ∃ w i, s.fetch = .ok w ∧ decode w = .ok i ∧ exec i s = .next t) ∨
    t = { s with pc := t.pc, halt := t.halt, effect := t.effect, unknownEvent := t.unknownEvent } := by
  obtain ⟨-, hs⟩ | ⟨-, info, -, hs⟩ | ⟨hh, w, i, hw, hi, hs⟩ | ⟨-, w, r, -, -, hs⟩ := engineStep_cases s <;> rw [hs] at h
  · cases h; exact .inr rfl
  · cases h; exact .inr rfl
  · exact .inl ⟨hh, w, i, hw, hi, h⟩
  · exact .inr (unknownWord_next_same h)

/-- A `Step` of a core that is not halted, in a state where a wait stands on an `LD Vx,K`: if it leaves the engine
AwaitingKey, it was an `LD Vx,K` that waited (43_keypad.md R202, R204). -/
theorem engineStep_awaiting {s t : State} (hh : s.halt = none) (hwait : s.waitOk) (h : engineStep s = .next t)
    (ht : t.mode = .awaitingKey) :
    t.pc = s.pc ∧ t.ram = s.ram ∧ t.effect = some .wait ∧ ∃ w x, s.fetch = .ok w ∧ decode w = .ok (.ldVxK x) := by
  obtain ⟨hhalt, -⟩ | ⟨-, info, hf, hs⟩ | ⟨-, w, i, hf, hi, hs⟩ | ⟨-, w, r, hf, hr, hs⟩ := engineStep_cases s
  · simp [hh] at hhalt
  · rw [hs] at h
    cases h
    obtain ⟨w, x, hw, -⟩ := hwait ht
    cases hf.symm.trans hw
  · rw [hs] at h
    by_cases hk : ∃ x, i = .ldVxK x
    · obtain ⟨x, rfl⟩ := hk
      obtain ⟨-, rfl⟩ | ⟨-, -, rfl⟩ | ⟨k, -, -, rfl⟩ := execLdVxK_next h
      · exact ⟨rfl, rfl, rfl, w, x, hf, hi⟩
      · exact ⟨rfl, rfl, rfl, w, x, hf, hi⟩
      · cases ht
    · have hmode := ((exec_framed i s t h).wait fun x hx => hk ⟨x, hx⟩).2
      obtain ⟨w', x, hw, hx⟩ := hwait (hmode ▸ ht)
      cases hf.symm.trans hw
      cases hi.symm.trans hx
      exact absurd ⟨x, rfl⟩ hk
  · rw [hs] at h
    rw [unknownWord_next_same h] at ht
    obtain ⟨w', x, hw, hx⟩ := hwait ht
    cases hf.symm.trans hw
    cases hr.symm.trans hx

/-- A `Step` with a latched key keeps it, or is the `LD Vx,K` that takes it (43_keypad.md R203). -/
theorem engineStep_latch {s t : State} {k : Key} (hk : s.latch = some k) (h : engineStep s = .next t) :
    t.latch = some k ∨
    (∃ w x, s.fetch = .ok w ∧ decode w = .ok (.ldVxK x) ∧ t.latch = none ∧
      ((s.mode = .awaitingKey ∧ (t.getV x).toNat = k.val) ∨ (s.mode = .running ∧ s.cfg.armClearsLatch = true))) := by
  obtain ⟨-, w, i, hf, hi, hexec⟩ | hsame := engineStep_next h
  · by_cases hi' : ∃ x, i = .ldVxK x
    · obtain ⟨x, rfl⟩ := hi'
      obtain ⟨hm, rfl⟩ | ⟨-, hnone, -⟩ | ⟨k', hm, hk', rfl⟩ := execLdVxK_next hexec
      · cases harm : s.cfg.armClearsLatch
        · exact .inl hk
        · exact .inr ⟨w, x, hf, hi, rfl, .inr ⟨hm, rfl⟩⟩
      · cases hk.symm.trans hnone
      · cases hk.symm.trans hk'
        have hlt := k.isLt
        exact .inr ⟨w, x, hf, hi, rfl, .inl ⟨hm, by simp; omega⟩⟩
    · exact .inl (((exec_framed i s t hexec).wait fun x hx => hi' ⟨x, hx⟩).1.trans hk)
  · rw [hsame]
    exact .inl hk

/-- A `Step` writes a timer only by `LD DT,Vx` or `LD ST,Vx` (10_state.md R30). -/
theorem engineStep_timers {s t : State} (h : engineStep s = .next t) (hne : t.dt ≠ s.dt ∨ t.st ≠ s.st) :
    ∃ w x, s.fetch = .ok w ∧
      ((decode w = .ok (.ldDtVx x) ∧ t.dt = s.getV x ∧ t.st = s.st) ∨
       (decode w = .ok (.ldStVx x) ∧ t.st = s.getV x ∧ t.dt = s.dt)) := by
  obtain ⟨-, w, i, hf, hi, hexec⟩ | hsame := engineStep_next h
  · by_cases hdt : ∃ x, i = .ldDtVx x
    · obtain ⟨x, rfl⟩ := hdt
      cases hexec
      exact ⟨w, x, hf, .inl ⟨hi, rfl, rfl⟩⟩
    · by_cases hst : ∃ x, i = .ldStVx x
      · obtain ⟨x, rfl⟩ := hst
        cases hexec
        exact ⟨w, x, hf, .inr ⟨hi, rfl, rfl⟩⟩
      · have hframe := exec_framed i s t hexec
        have hdt' := hframe.dt fun x hx => hdt ⟨x, hx⟩
        have hst' := hframe.st fun x hx => hst ⟨x, hx⟩
        exact absurd hne (by simp [hdt', hst'])
  · rw [hsame] at hne
    exact absurd hne (by simp)

/-! ### Call and return -/

/-- A call with room pushes PC + 2 and jumps (40_control_flow.md R127). -/
theorem execCall_of_room {nnn : Addr12} {s : State} (hs : s.stackOk) (hroom : s.sp < s.cfg.stackDepth) :
    exec (.call nnn) s = .next (State.finish
      { s with stack := s.stack.set s.sp (s.pc + 2), sp := s.sp + 1 } (imm12 nnn) (.call (imm12 nnn))) := by
  obtain ⟨hlen, -⟩ := hs
  simp only [exec, execCall, if_neg (Nat.ne_of_lt hroom)]
  exact complete_call s _ (hlen ▸ hroom)

/-- A return with an entry to pop resumes there (40_control_flow.md R125). -/
theorem execRet_of_top {s : State} {a : Word} (hsp : s.sp ≠ 0) (ha : s.stack[s.sp - 1]? = some a) :
    exec .ret s = .next (State.finish { s with sp := s.sp - 1 } a .ret) := by
  simp only [exec, execRet, if_neg hsp]
  exact complete_ret s a ha

/-! ### The obligations -/

/-- Settles O11: what `act_halted` lets an action write is none of the elements listed. -/
theorem haltLastsUntilReset : Obligations.HaltLastsUntilReset := by
  intro s t e he hreset h
  rw [step_eq_act] at h
  have hhalt : s.popAgenda.halt ≠ none := by simp [State.popAgenda, he]
  rw [act_halted hhalt (fun rom launch ha => hreset rom launch _ (agenda_eq_cons ha (by simp))) h]
  simp [State.popAgenda, he]

/-- Settles O18: the return pops the slot the call wrote, and the slots below it are not written. -/
theorem returnUndoesCall : Obligations.ReturnUndoesCall := by
  intro nnn s t u hs hroom hcall hstack hsp
  cases (execCall_of_room hs hroom).symm.trans hcall
  simp only [State.finish_stack, State.finish_sp] at hstack hsp
  have hlt : s.sp < s.stack.length := hs.1 ▸ hroom
  have htop : u.stack[u.sp - 1]? = some (s.pc + 2) := by simp [hstack, hsp, hlt]
  refine ⟨_, execRet_of_top (by omega) htop, rfl, by simp [hsp], fun j hj => ?_⟩
  simp [hstack, List.getElem?_set_ne (Nat.ne_of_gt hj)]

/-- Settles O33: no agent but the host writes the latch, and a `Step` only by the `LD Vx,K` that takes the key. -/
theorem latchedKeyIsNotLost : Obligations.LatchedKeyIsNotLost := by
  intro s t k hk h
  rw [step_eq_act] at h
  obtain ⟨-, hs⟩ | ⟨-, rfl⟩ | ⟨-, rfl⟩ | ⟨k', ha, rfl⟩ | ⟨k', -, rfl⟩ | ⟨-, rfl⟩ | ⟨rom, launch, ha, -⟩ := act_next h
  · exact (engineStep_latch (s := s.popAgenda) hk hs).imp_right fun htaken => .inr (.inr htaken)
  · obtain ⟨d, dt, st, hd⟩ := clkEdge_writes_timers s.popAgenda
    exact .inl (hd ▸ hk)
  · obtain ⟨dt, st, hd⟩ := tick_writes_timers s.popAgenda
    exact .inl (hd ▸ hk)
  · exact .inr (.inl ⟨k', _, agenda_eq_cons ha (by simp), rfl⟩)
  · exact .inl hk
  · exact .inl hk
  · exact .inr (.inr (.inl ⟨rom, launch, _, agenda_eq_cons ha (by simp)⟩))

/-- Settles O57: of the other agents' actions only a tick, a clock edge and a reset write a timer, and a `Step` only by
the two loads. -/
theorem timerWriters : Obligations.TimerWriters := by
  intro s t h hne
  rw [step_eq_act] at h
  obtain ⟨-, hs⟩ | ⟨ha, -⟩ | ⟨ha, -⟩ | ⟨k, -, rfl⟩ | ⟨k, -, rfl⟩ | ⟨-, rfl⟩ | ⟨rom, launch, ha, -⟩ := act_next h
  · exact .inr (engineStep_timers (s := s.popAgenda) hs hne)
  · exact .inl ⟨_, _, agenda_eq_cons ha (by simp), .inr (.inl rfl)⟩
  · exact .inl ⟨_, _, agenda_eq_cons ha (by simp), .inl rfl⟩
  · exact absurd ⟨rfl, rfl⟩ (not_and_or.mpr hne)
  · exact absurd ⟨rfl, rfl⟩ (not_and_or.mpr hne)
  · exact absurd ⟨rfl, rfl⟩ (not_and_or.mpr hne)
  · exact .inl ⟨_, _, agenda_eq_cons ha (by simp), .inr (.inr ⟨rom, launch, rfl⟩)⟩

/-- Settles O58: with an empty agenda the step is the Engine's. -/
theorem waitingLeavesPc : Obligations.WaitingLeavesPc := by
  intro s t hagenda hh hwait h ht
  have hs : step s = engineStep s := by simp [step, nextAction, hagenda]
  obtain ⟨hpc, -, heffect, -⟩ := engineStep_awaiting hh hwait (hs ▸ h) ht
  exact ⟨hpc, heffect⟩

end Sys2Proof.Machine
end

section
/-! PROOFS. The invariant (10_state.md R27, R29, R31, R33; 43_keypad.md R204): it holds after every reset, every
instruction keeps the clauses on the data, a wait stands on its `LD Vx,K`, and so every action of every agent keeps it. -/

namespace Sys2Proof.Machine

/-! ### The clauses on the data -/

/-- The clauses of the invariant but the one on a wait, which speaks of the word at `PC`. -/
structure State.DataInv (s : State) : Prop where
  ram : s.ramOk
  stack : s.stackOk
  slots : s.slotsOk
  pc : s.pcOk
  fb : s.fbOk
  div : s.divOk

theorem State.Inv.data {s : State} (h : s.Inv) : s.DataInv := ⟨h.ram, h.stack, h.slots, h.pc, h.fb, h.div⟩

theorem State.DataInv.inv {s : State} (h : s.DataInv) (hwait : s.waitOk) : s.Inv :=
  ⟨h.ram, h.stack, h.slots, h.pc, h.fb, h.div, hwait⟩

theorem State.DataInv.finish {s : State} (h : s.DataInv) {pc : Word} (hpc : pc.toNat ≤ 0x10FE) (e : Effect) :
    (s.finish pc e).DataInv := { h with pc := hpc }

theorem State.DataInv.halted {s : State} (h : s.DataInv) (k : ErrorKind) (info : Word) : (s.halted k info).DataInv :=
  { h with }

/-- The clauses on the data, in a state in which a word can be fetched at `PC` (40_control_flow.md R120). -/
structure State.FetchInv (s : State) : Prop extends State.DataInv s where
  fetch : s.pc.toNat ≤ 0x0FFE

theorem State.FetchInv.setV {s : State} (h : s.FetchInv) (x : Reg) (b : Byte) : (s.setV x b).FetchInv := { h with }

theorem State.FetchInv.logicFlag {s : State} (h : s.FetchInv) : s.logicFlag.FetchInv := by
  unfold State.logicFlag
  split
  · exact h.setV ..
  · exact h

/-! ### The ends of a step -/

/-- If the outcome is a next state, that state meets the clauses on the data. -/
def KeepsData (o : Host.Outcome State Fault Refusal) : Prop := ∀ t, o = .next t → t.DataInv

theorem KeepsData.raise {s : State} (h : s.DataInv) (k : ErrorKind) (info : Word) : KeepsData (raise k info s) := by
  rintro t ⟨⟩
  exact h.halted k info

/-- The target of a jump or a call is in the range of `PC` (10_state.md R27). -/
def Effect.TargetOk : Effect → Prop
  | .jump a | .call a => a.toNat ≤ 0x10FE
  | .advance | .ret | .skip | .wait => True

/-- A push keeps the stack's bounds, and the return address is at most 0x1000 (10_state.md R29, 40_control_flow.md
R125). -/
theorem State.FetchInv.push {s : State} (h : s.FetchInv) (hroom : s.sp < s.stack.length) :
    State.DataInv { s with stack := s.stack.set s.sp (s.pc + 2), sp := s.sp + 1 } :=
  { h with
    stack := ⟨(List.length_set ..).trans h.stack.1, h.stack.1 ▸ hroom⟩
    slots := fun a ha => by
      have hfetch := h.fetch
      obtain hold | rfl := List.mem_or_eq_of_mem_set ha
      · exact h.slots a hold
      · bv_omega }

theorem State.FetchInv.pop {s : State} (h : s.FetchInv) : State.DataInv { s with sp := s.sp - 1 } :=
  { h with stack := ⟨h.stack.1, (Nat.sub_le ..).trans h.stack.2⟩ }

/-- `PC` past the instruction, or past one more, is in range. -/
theorem State.FetchInv.next_pc {s : State} (h : s.FetchInv) :
    (s.pc + 2).toNat ≤ 0x10FE ∧ (s.pc + 4).toNat ≤ 0x10FE := by
  have hfetch := h.fetch
  constructor <;> bv_omega

/-- An effect leaves `PC` in range: by 2 or 4 further, at a return address, or at the target. -/
theorem KeepsData.complete {s : State} (h : s.FetchInv) (e : Effect) (he : e.TargetOk) : KeepsData (complete e s) := by
  intro t ht
  obtain ⟨-, rfl⟩ | ⟨a, rfl, rfl⟩ | ⟨a, rfl, hroom, rfl⟩ | ⟨a, -, ha, rfl⟩ | ⟨-, rfl⟩ | ⟨-, rfl⟩ := complete_next ht
  · exact h.finish h.next_pc.1 _
  · exact h.finish he _
  · exact (h.push hroom).finish he _
  · exact h.pop.finish ((h.slots a (List.mem_of_getElem? ha)).trans (by decide)) _
  · exact h.finish h.next_pc.2 _
  · exact h.finish h.pc _

theorem KeepsData.unknownWord {s : State} (h : s.FetchInv) (w : Word) : KeepsData (unknownWord w s) := by
  intro t ht
  obtain ⟨-, rfl⟩ | ⟨-, rfl⟩ := unknownWord_next ht
  · exact { h with }
  · exact { h with pc := h.next_pc.1 }

/-! ### The instructions -/

theorem imm12_le (nnn : Addr12) : (imm12 nnn).toNat ≤ 0x0FFF := by
  have := nnn.isLt
  rw [imm12_toNat]; omega

/-- The largest target of a jump with offset is 0x0FFF + 0xFF (40_control_flow.md R130, 10_state.md R27). -/
theorem jumpOffsetTarget_le (s : State) (nnn : Addr12) (x : Reg) : (jumpOffsetTarget s nnn x).toNat ≤ 0x10FE := by
  unfold jumpOffsetTarget
  generalize s.getV _ = offset
  have hbase := imm12_le nnn
  have hoffset : (zext16 offset).toNat ≤ 0xFF := by rw [zext16_toNat]; omega
  bv_omega

/-- A store that passes the bounds check keeps RAM canonical (20_memory.md R71). -/
theorem State.FetchInv.writeBytes {s : State} (h : s.FetchInv) {count : Nat}
    (hcheck : rangeError s.i.toNat count = none) {bytes : List Byte} (hlen : bytes.length = count) (hcount : count ≠ 0) :
    State.FetchInv { s with ram := s.ram.writeBytes s.i.toNat bytes } := by
  have hfits := ((rangeError_none_iff ..).mp hcheck).resolve_left hcount
  exact { h with ram := s.ram.writeBytes_wf _ _ (hlen ▸ hfits) h.ram }

theorem KeepsData.execLdVxK {s : State} (h : s.FetchInv) (x : Reg) : KeepsData (exec (.ldVxK x) s) := by
  intro t ht
  obtain ⟨-, rfl⟩ | ⟨-, -, rfl⟩ | ⟨k, -, -, rfl⟩ := execLdVxK_next ht
  · exact { h with }
  · exact { h with }
  · exact { h with pc := h.next_pc.1 }

/-- Every instruction, executed where its word was fetched, keeps the clauses on the data. -/
theorem KeepsData.exec {s : State} (h : s.FetchInv) (i : Instr) : KeepsData (exec i s) := by
  have hskip (b : Bool) : KeepsData (skipIf b s) := .complete h _ (by cases b <;> trivial)
  cases i with
  | ret =>
    simp only [Machine.exec, execRet]
    split
    · exact .raise h.toDataInv _ _
    · exact .complete h .ret trivial
  | call nnn =>
    simp only [Machine.exec, execCall]
    split
    · exact .raise h.toDataInv _ _
    · exact .complete h (.call _) ((imm12_le nnn).trans (by decide))
  | jp nnn => exact .complete h (.jump _) ((imm12_le nnn).trans (by decide))
  | jpV0 nnn x => exact .complete h (.jump _) (jumpOffsetTarget_le s nnn x)
  | seImm | sneImm | seReg | sneReg => exact hskip _
  | skp | sknp =>
    simp only [Machine.exec, execSkp, execSknp]
    split
    · exact .raise h.toDataInv _ _
    · exact hskip _
  | orReg | andReg | xorReg => exact .complete (h.setV ..).logicFlag .advance trivial
  | addReg | subReg | subnReg | shr | shl => exact .complete ((h.setV ..).setV ..) .advance trivial
  | cls =>
    refine .complete ?_ .advance trivial
    exact { h with fb := Framebuffer.clear_shaped s.cfg }
  | drw x y n =>
    simp only [Machine.exec, execDrw]
    split
    · exact .raise h.toDataInv _ _
    · refine .complete ?_ .advance trivial
      exact { h with fb := drawCells_shaped s.cfg s.fb _ h.fb }
  | ldVxK x => exact .execLdVxK h x
  | ldBVx | ldMemVx =>
    simp only [Machine.exec, execLdBVx, execLdMemVx]
    split
    · exact .raise h.toDataInv _ _
    · exact .complete (h.writeBytes ‹_› (by simp) (by simp)) .advance trivial
  | ldVxMem =>
    simp only [Machine.exec, execLdVxMem]
    split
    · exact .raise h.toDataInv _ _
    · refine .complete ?_ .advance trivial
      exact { h with }
  | ldImm | addImm | ldReg | ldVxDt | rnd | ldDtVx | ldStVx | ldI | addIVx | ldFVx =>
    refine .complete ?_ .advance trivial
    exact { h with }

/-! ### The actions of the agents -/

/-- A `Step` keeps the invariant: the data by the four ways it can go, the wait because only an `LD Vx,K` that waited
leaves the engine AwaitingKey. -/
theorem engineStep_inv {s t : State} (h : s.Inv) (ht : engineStep s = .next t) : t.Inv := by
  by_cases hh : s.halt = none
  case neg => rw [engineStep_halted hh ht]; exact h
  refine State.DataInv.inv ?_ fun hmode => ?_
  · obtain ⟨hhalt, -⟩ | ⟨-, info, -, hs⟩ | ⟨-, w, i, hf, -, hs⟩ | ⟨-, w, r, hf, -, hs⟩ := engineStep_cases s
    · simp [hh] at hhalt
    · exact KeepsData.raise h.data _ info t (hs ▸ ht)
    all_goals
      have hfetch : s.FetchInv := { h with fetch := Nat.le_sub_of_add_le ((fetch_eq_ok_iff s w).mp hf).1 }
    · exact KeepsData.exec hfetch i t (hs ▸ ht)
    · exact KeepsData.unknownWord hfetch w t (hs ▸ ht)
  · obtain ⟨hpc, hram, -, w, x, hf, hw⟩ := engineStep_awaiting hh h.wait ht hmode
    have hfetch : t.fetch = s.fetch := by simp only [State.fetch, State.wordAt, hpc, hram]
    exact ⟨w, x, hfetch.trans hf, hw⟩

theorem State.Inv.tick {s : State} (h : s.Inv) : s.tick.Inv := by
  obtain ⟨dt, st, hs⟩ := tick_writes_timers s
  rw [hs]
  exact { h with }

/-- The divider wraps at the last count of its range and counts below it (10_state.md R31, 60_exceptions.md R273). -/
theorem State.Inv.clkEdge {s : State} (h : s.Inv) : s.clkEdge.Inv := by
  have hrange : s.div < clkHz / tickHz := h.div
  obtain ⟨-, hs⟩ | ⟨hne, hs⟩ := clkEdge_cases s <;> rw [hs]
  · exact State.Inv.tick { h with div := Nat.zero_lt_of_lt hrange }
  · exact { h with div := by simp only [State.divOk]; omega }

/-- The state after reset meets the invariant, whatever the parameters and the contents of RAM. -/
theorem fresh_inv (cfg : Config) {ram : Memory} (hram : ram.wf) : (State.fresh cfg ram).Inv where
  ram := hram
  stack := ⟨List.length_replicate, Nat.zero_le _⟩
  slots := fun a ha => by rw [List.eq_of_mem_replicate ha]; decide
  pc := by simp only [State.pcOk, State.fresh]; decide
  fb := Framebuffer.clear_shaped cfg
  div := by simp only [State.divOk, State.fresh, clkHz_div_tickHz]; omega
  wait := nofun

theorem act_inv {a : Action} {s t : State} (h : s.Inv) (ht : act a s = .next t) : t.Inv := by
  obtain ⟨-, hs⟩ | ⟨-, rfl⟩ | ⟨-, rfl⟩ | ⟨k, -, rfl⟩ | ⟨k, -, rfl⟩ | ⟨-, rfl⟩ | ⟨rom, launch, -, hrom, rfl⟩ :=
    act_next ht
  · exact engineStep_inv h hs
  · exact h.clkEdge
  · exact h.tick
  · exact { h with }
  · exact { h with }
  · exact { h with }
  · exact { fresh_inv s.cfg (bootRam_wf s.cfg rom launch hrom) with }

/-! ### The obligations -/

/-- Settles O51: `fresh_inv`, for the default parameters and the RAM of an empty ROM. -/
theorem resetMeetsInvariant : Obligations.ResetMeetsInvariant := fresh_inv defaultConfig Memory.nil_wf

/-- Settles O52: a step is one action, and taking it off the agenda touches no clause. -/
theorem everyStepKeepsInvariant : Obligations.EveryStepKeepsInvariant := by
  intro s t h ht
  have hpop : s.popAgenda.Inv := { h with }
  exact act_inv hpop (step_eq_act s ▸ ht)

end Sys2Proof.Machine
end

section
/-! PROOFS. RAM and its writers (20_memory.md R72, R74, R78): what a bulk store does to the bytes it covers, which
instructions store at all, and the two statements of the family. -/

namespace Sys2Proof.Machine

/-! ### The bulk store -/

/-- The bytes of a dump are the registers, V0 first (44_timer_index_memory.md R233). -/
theorem dumpBytes_getElem (s : State) (x r : Reg) (h : r.val < (dumpBytes s x).length) :
    (dumpBytes s x)[r.val] = s.getV r := by
  simp [dumpBytes, State.getV, Vector.get_eq_getElem]

/-- A bulk store that stays in RAM completes (44_timer_index_memory.md R233). -/
theorem execLdMemVx_of_fits {x : Reg} {s : State} (hfits : s.i.toNat + x.val ≤ 0x0FFF) :
    exec (.ldMemVx x) s = .next
      (State.finish { s with ram := s.ram.writeBytes s.i.toNat (dumpBytes s x) } (s.pc + 2) .advance) := by
  have hcheck : rangeError s.i.toNat (x.val + 1) = none :=
    (rangeError_none_iff ..).mpr (.inr (by simp only [ramSize]; omega))
  simp only [exec, execLdMemVx, hcheck, complete_advance]

/-- After a dump inside RAM, the byte at `I` + r is V[r], for every register dumped. -/
theorem read_dumpBytes {x r : Reg} {s : State} (hram : s.ramOk) (hfits : s.i.toNat + x.val ≤ 0x0FFF) (hr : r ≤ x) :
    (s.ram.writeBytes s.i.toNat (dumpBytes s x)).read (s.i.toNat + r.val) = s.getV r := by
  have hlt : r.val < (dumpBytes s x).length := by rw [dumpBytes_length]; exact Nat.lt_succ_of_le hr
  have hend : s.i.toNat + (dumpBytes s x).length ≤ ramSize := by rw [dumpBytes_length, ramSize]; omega
  rw [Memory.read_writeBytes_in _ _ _ _ hlt hend hram, dumpBytes_getElem]

/-! ### The writers of RAM -/

/-- Only `LD B,Vx` and `LD [I],Vx` store to RAM (20_memory.md R72). -/
theorem storedCount_cases (i : Instr) :
    storedCount i = 0 ∨ (∃ x, i = .ldBVx x ∧ storedCount i = 3) ∨ (∃ x, i = .ldMemVx x ∧ storedCount i = x.val + 1) := by
  cases i with
  | ldBVx x => exact .inr (.inl ⟨x, rfl, rfl⟩)
  | ldMemVx x => exact .inr (.inr ⟨x, rfl, rfl⟩)
  | _ => exact .inl rfl

/-- A byte that reads differently after an instruction is one of those the instruction stores to. -/
theorem exec_changes_stored {i : Instr} {s t : State} {a : Nat} (h : exec i s = .next t)
    (hne : t.ram.read a ≠ s.ram.read a) : s.i.toNat ≤ a ∧ a < s.i.toNat + storedCount i := by
  by_contra hout
  exact hne ((exec_framed i s t h).ram a (by omega))

/-- A `Step` changes a byte of RAM only by `LD B,Vx` or `LD [I],Vx`, and only one of those it stores to
(20_memory.md R72, R74). -/
theorem engineStep_ram {s t : State} {a : Nat} (h : engineStep s = .next t) (hne : t.ram.read a ≠ s.ram.read a) :
    ∃ w x, s.fetch = .ok w ∧
      ((decode w = .ok (.ldBVx x) ∧ s.i.toNat ≤ a ∧ a ≤ s.i.toNat + 2) ∨
       (decode w = .ok (.ldMemVx x) ∧ s.i.toNat ≤ a ∧ a ≤ s.i.toNat + x.val)) := by
  obtain ⟨-, w, i, hf, hi, hexec⟩ | hsame := engineStep_next h
  · obtain ⟨hlo, hhi⟩ := exec_changes_stored hexec hne
    obtain hnone | ⟨x, rfl, hcount⟩ | ⟨x, rfl, hcount⟩ := storedCount_cases i
    · omega
    · exact ⟨w, x, hf, .inl ⟨hi, hlo, by omega⟩⟩
    · exact ⟨w, x, hf, .inr ⟨hi, hlo, by omega⟩⟩
  · rw [hsame] at hne
    exact absurd rfl hne

/-! ### The obligations -/

/-- Settles O56: of the other agents' actions only a reset writes RAM, and a `Step` only by the two stores. -/
theorem ramWriters : Obligations.RamWriters := by
  intro s t a h hne
  rw [step_eq_act] at h
  obtain ⟨-, hs⟩ | ⟨-, rfl⟩ | ⟨-, rfl⟩ | ⟨k, -, rfl⟩ | ⟨k, -, rfl⟩ | ⟨-, rfl⟩ | ⟨rom, launch, ha, -⟩ := act_next h
  · exact .inr (engineStep_ram (s := s.popAgenda) hs hne)
  · obtain ⟨d, dt, st, hd⟩ := clkEdge_writes_timers s.popAgenda
    exact absurd (hd ▸ rfl) hne
  · obtain ⟨dt, st, hd⟩ := tick_writes_timers s.popAgenda
    exact absurd (hd ▸ rfl) hne
  · exact absurd rfl hne
  · exact absurd rfl hne
  · exact absurd rfl hne
  · exact .inl ⟨rom, launch, _, agenda_eq_cons ha (by simp)⟩

/-- Settles O59: the store puts V0 and V1 at `I` and `I` + 1, which is where the next fetch reads. -/
theorem storedCodeIsFetched : Obligations.StoredCodeIsFetched := by
  intro x s t hram _ hi hx hfits h
  cases (execLdMemVx_of_fits hfits).symm.trans h
  have hnext : s.i.toNat + 2 ≤ ramSize := by simp only [ramSize]; omega
  have hhi := read_dumpBytes (r := 0) hram hfits (Fin.zero_le x)
  have hlo := read_dumpBytes (r := 1) hram hfits hx
  refine (fetch_eq_ok_iff ..).mpr ⟨hi ▸ hnext, ?_⟩
  simp only [State.finish_pc, State.finish_ram, State.wordAt, ← hi]
  exact congrArg₂ wordOfBytes hhi.symm hlo.symm

end Sys2Proof.Machine
end

section
/-! PROOFS. The decoder and the encoder (30_encoding.md R90 to R98, R105): the word of each format is read back, a
word that decodes is its instruction's word, the rows as masks, the Unknown words, and the five statements on them. -/

namespace Sys2Proof

/-! ### The values of a nibble, the bytes of a word -/

/-- Case analysis on a field of an instruction word: one case per value, named by its hexadecimal digit. -/
theorem nibble_cases {motive : Nibble → Prop} (is0 : motive 0x0) (is1 : motive 0x1) (is2 : motive 0x2)
    (is3 : motive 0x3) (is4 : motive 0x4) (is5 : motive 0x5) (is6 : motive 0x6) (is7 : motive 0x7) (is8 : motive 0x8)
    (is9 : motive 0x9) (isA : motive 0xA) (isB : motive 0xB) (isC : motive 0xC) (isD : motive 0xD) (isE : motive 0xE)
    (isF : motive 0xF) (t : Nibble) : motive t := by
  obtain ⟨k, hk⟩ := t
  interval_cases k <;> assumption

@[simp] theorem loByte_pack (op x y n : Nibble) : loByte (packNibbles op x y n) = fieldNN y n := by
  unfold loByte packNibbles fieldNN; ext i hi; simp; grind

/-! ### From an instruction's word to the instruction, format by format (R92) -/

/-- Format `A`: if all words of an `op` are of one kind, `nnn` is read back. -/
theorem decode_encA {op : Nibble} {f : Addr12 → Instr} (h : ∀ x y n, classify op x y n = .ok (f (fieldNNN x y n)))
    (nnn : Addr12) : decode (encA op nnn) = .ok (f nnn) := by
  rw [encA, decode_pack, h, fieldNNN_split]

/-- Format `RI`: if all words of an `op` are of one kind, `x` and `nn` are read back. -/
theorem decode_encRI {op : Nibble} {f : Reg → Byte → Instr}
    (h : ∀ x y n, classify op x y n = .ok (f (toReg x) (fieldNN y n))) (x : Reg) (nn : Byte) :
    decode (encRI op x nn) = .ok (f x nn) := by
  rw [encRI, decode_pack, h, toReg_ofReg, fieldNN_split]

/-- Format `R`: if an `op` and a function byte together are one kind, `x` is read back. -/
theorem decode_encRI_function {op : Nibble} {nn : Byte} {f : Reg → Instr}
    (h : ∀ x, classify op x (nn.extractLsb' 4 4) (nn.extractLsb' 0 4) = .ok (f (toReg x))) (x : Reg) :
    decode (encRI op x nn) = .ok (f x) := by
  rw [encRI, decode_pack, h, toReg_ofReg]

/-- Formats `RR` and `RRN`: if an `op` and a low nibble together are one kind, `x` and `y` are read back. -/
theorem decode_encRR {op n : Nibble} {f : Reg → Reg → Instr}
    (h : ∀ x y, classify op x y n = .ok (f (toReg x) (toReg y))) (x y : Reg) :
    decode (encRR op x y n) = .ok (f x y) := by
  rw [encRR, decode_pack, h, toReg_ofReg, toReg_ofReg]

/-- The register operand of `JP V0,nnn` is the top nibble of the address operand, so the address alone fixes the word
(R92). -/
theorem decode_encode_jpV0 (nnn : Addr12) : decode (encode (.jpV0 nnn nnn.topReg)) = .ok (.jpV0 nnn nnn.topReg) := by
  refine decode_encA (f := fun a => .jpV0 a (Addr12.topReg a)) (fun x y n => ?_) nnn
  rw [Addr12.topReg, fieldNNN_hi]
  rfl

/-! ### From the fields of a word to the word of the instruction -/

theorem encA_fieldNNN (op x y n : Nibble) : encA op (fieldNNN x y n) = packNibbles op x y n := by
  rw [encA, fieldNNN_hi, fieldNNN_mid, fieldNNN_lo]

theorem encRI_fieldNN (op x y n : Nibble) : encRI op (toReg x) (fieldNN y n) = packNibbles op x y n := by
  rw [encRI, ofReg_toReg, fieldNN_hi, fieldNN_lo]

/-- Format `R`: the function byte is the low byte of the word. -/
theorem encRI_of_toNat_eq {y n : Nibble} {k : Nat} (h : (fieldNN y n).toNat = k) (op x : Nibble) :
    encRI op (toReg x) (BitVec.ofNat 8 k) = packNibbles op x y n := by
  rw [← h, BitVec.ofNat_toNat, BitVec.setWidth_eq, encRI_fieldNN]

theorem encRR_toReg (op x y n : Nibble) : encRR op (toReg x) (toReg y) n = packNibbles op x y n := rfl

/-- The words of op 0 with `x` = 0, of which `CLS` and `RET` are two, by their low byte. -/
theorem packNibbles_op0_eq_iff {x y n : Nibble} {nn : Byte} :
    packNibbles 0x0 x y n = encRI 0x0 0 nn ↔ x = 0 ∧ fieldNN y n = nn := by
  constructor
  · intro h
    have hx := congrArg fieldX h
    have hlo := congrArg loByte h
    rw [encRI, fieldX_pack, fieldX_pack] at hx
    rw [encRI, loByte_pack, loByte_pack, fieldNN_split] at hlo
    exact ⟨hx, hlo⟩
  · rintro ⟨rfl, rfl⟩
    exact (encRI_fieldNN 0 0 y n).symm

/-- The decoder is strict (R98): the fields of a word that is of some kind are those of that instruction's word. -/
theorem encode_of_classify {op x y n : Nibble} {i : Instr} (h : classify op x y n = .ok i) :
    i.wellFormed = true ∧ encode i = packNibbles op x y n := by
  cases op using nibble_cases with
  | is0 =>
    simp only [classify, BitVec.reduceToNat] at h
    split_ifs at h with hcls hret
    · cases h
      exact ⟨rfl, (packNibbles_op0_eq_iff.mpr hcls).symm⟩
    · cases h
      exact ⟨rfl, (packNibbles_op0_eq_iff.mpr hret).symm⟩
  | is1 | is2 | isA =>
    obtain rfl := Except.ok.inj h
    exact ⟨rfl, encA_fieldNNN ..⟩
  | isB =>
    obtain rfl := Except.ok.inj h
    exact ⟨by simp [Instr.wellFormed, Addr12.topReg, toReg], encA_fieldNNN ..⟩
  | is3 | is4 | is6 | is7 | isC =>
    obtain rfl := Except.ok.inj h
    exact ⟨rfl, encRI_fieldNN ..⟩
  | is5 | is9 =>
    simp only [classify, BitVec.reduceToNat] at h
    split_ifs at h with hn
    cases h
    exact ⟨rfl, hn ▸ encRR_toReg ..⟩
  | is8 =>
    cases n using nibble_cases with
    | is0 | is1 | is2 | is3 | is4 | is5 | is6 | is7 | isE =>
      obtain rfl := Except.ok.inj h
      exact ⟨rfl, encRR_toReg ..⟩
    | is8 | is9 | isA | isB | isC | isD | isF => cases h
  | isD =>
    obtain rfl := Except.ok.inj h
    exact ⟨rfl, encRR_toReg ..⟩
  | isE | isF =>
    simp only [classify, BitVec.reduceToNat] at h
    split at h <;> rename_i hfunction <;> cases h
    all_goals exact ⟨rfl, encRI_of_toNat_eq hfunction ..⟩

/-! ### The rows as masks (R96) -/

theorem decode_of_mask_op {w m : Word} (h : w &&& 0xF000 = m) :
    decode w = classify (fieldOp m) (fieldX w) (fieldY w) (fieldN w) := by
  rw [decode, ← h, ← pack_fields w, Laws.mask_op]; simp

theorem decode_of_mask_op_n {w m : Word} (h : w &&& 0xF00F = m) :
    decode w = classify (fieldOp m) (fieldX w) (fieldY w) (fieldN m) := by
  rw [decode, ← h, ← pack_fields w, Laws.mask_op_n]; simp

theorem decode_of_mask_op_nn {w m : Word} (h : w &&& 0xF0FF = m) :
    decode w = classify (fieldOp m) (fieldX w) (fieldY m) (fieldN m) := by
  rw [decode, ← h, ← pack_fields w, Laws.mask_op_nn]; simp

/-- A word that matches a row is of that row's kind: the mask leaves the fields that decide the kind. -/
theorem decode_of_rowMatch {i : Instr} {w : Word} (h : w &&& (tableRow i).1 = (tableRow i).2) :
    ∃ j, decode w = .ok j ∧ tableRow j = tableRow i := by
  cases i with
  | cls | ret =>
    obtain rfl := (BitVec.and_allOnes (x := w)).symm.trans h
    exact ⟨_, rfl, rfl⟩
  | jp | call | seImm | sneImm | ldImm | addImm | ldI | jpV0 | rnd | drw =>
    dsimp only [tableRow] at h
    exact ⟨_, decode_of_mask_op h, rfl⟩
  | seReg | ldReg | orReg | andReg | xorReg | addReg | subReg | shr | subnReg | shl | sneReg =>
    dsimp only [tableRow] at h
    exact ⟨_, decode_of_mask_op_n h, rfl⟩
  | skp | sknp | ldVxDt | ldVxK | ldDtVx | ldStVx | addIVx | ldFVx | ldBVx | ldMemVx | ldVxMem =>
    dsimp only [tableRow] at h
    exact ⟨_, decode_of_mask_op_nn h, rfl⟩

/-- The family `Laws.RowMatch`, for every instruction at once. -/
theorem encode_rowMatch (i : Instr) : Laws.RowMatch.Statement i := by
  open Laws.RowMatch in
  cases i
  exacts [cls, ret, jp _, call _, seImm _ _, sneImm _ _, seReg _ _, ldImm _ _, addImm _ _, ldReg _ _, orReg _ _,
    andReg _ _, xorReg _ _, addReg _ _, subReg _ _, shr _ _, subnReg _ _, shl _ _, sneReg _ _, ldI _, jpV0 _ _,
    rnd _ _, drw _ _ _, skp _, sknp _, ldVxDt _, ldVxK _, ldDtVx _, ldStVx _, addIVx _, ldFVx _, ldBVx _, ldMemVx _,
    ldVxMem _]

/-! ### The Unknown words, group by group (R97) -/

theorem classify_op0_error_iff (x y n : Nibble) :
    (∃ r, classify 0x0 x y n = .error r) ↔ packNibbles 0x0 x y n ≠ 0x00E0 ∧ packNibbles 0x0 x y n ≠ 0x00EE := by
  have hcls : packNibbles 0x0 x y n = 0x00E0 ↔ x = 0 ∧ fieldNN y n = 0xE0 := packNibbles_op0_eq_iff (nn := 0xE0)
  have hret : packNibbles 0x0 x y n = 0x00EE ↔ x = 0 ∧ fieldNN y n = 0xEE := packNibbles_op0_eq_iff (nn := 0xEE)
  rw [ne_eq, ne_eq, hcls, hret]
  simp only [classify, BitVec.reduceToNat]
  split_ifs <;> simp_all

theorem classify_op5_op9_error_iff {op : Nibble} (hop : op = 0x5 ∨ op = 0x9) (x y n : Nibble) :
    (∃ r, classify op x y n = .error r) ↔ n ≠ 0 := by
  obtain rfl | rfl := hop
  all_goals
    simp only [classify, BitVec.reduceToNat]
    split_ifs with hn
    · simp [hn]
    · simpa using hn

theorem classify_op8_error_iff (x y n : Nibble) :
    (∃ r, classify 0x8 x y n = .error r) ↔ n ∈ [0x8, 0x9, 0xA, 0xB, 0xC, 0xD, 0xF] := by
  cases n using nibble_cases <;> simp [classify]

theorem classify_opE_error_iff (x y n : Nibble) :
    (∃ r, classify 0xE x y n = .error r) ↔ fieldNN y n ≠ 0x9E ∧ fieldNN y n ≠ 0xA1 := by
  simp only [classify, BitVec.reduceToNat]
  split <;> simp_all [BitVec.toNat_eq]

theorem classify_opF_error_iff (x y n : Nibble) :
    (∃ r, classify 0xF x y n = .error r) ↔
      fieldNN y n ∉ [0x07, 0x0A, 0x15, 0x18, 0x1E, 0x29, 0x33, 0x55, 0x65] := by
  simp only [classify, BitVec.reduceToNat]
  split <;> simp_all [BitVec.toNat_eq]

/-! ### The obligations -/

/-- Settles O1, format by format; only `JP V0,nnn` needs that the instruction is well-formed. -/
theorem decodeOfEncode : Obligations.DecodeOfEncode := by
  intro i hi
  cases i with
  | cls | ret => rfl
  | jp | call | ldI => exact decode_encA (fun _ _ _ => rfl) _
  | jpV0 nnn x =>
    obtain rfl : x = nnn.topReg := eq_of_beq hi
    exact decode_encode_jpV0 nnn
  | seImm | sneImm | ldImm | addImm | rnd => exact decode_encRI (fun _ _ _ => rfl) _ _
  | seReg | ldReg | orReg | andReg | xorReg | addReg | subReg | shr | subnReg | shl | sneReg =>
    exact decode_encRR (fun _ _ => rfl) _ _
  | drw x y n => exact decode_encRR (f := (.drw · · n)) (fun _ _ => rfl) x y
  | skp | sknp | ldVxDt | ldVxK | ldDtVx | ldStVx | addIVx | ldFVx | ldBVx | ldMemVx | ldVxMem =>
    exact decode_encRI_function (fun _ => rfl) _

/-- Settles O2: a word is its four fields packed, and `encode_of_classify`. -/
theorem encodeOfDecode : Obligations.EncodeOfDecode := by
  intro w i h
  rw [← pack_fields w]
  exact encode_of_classify h

/-- Settles O3: a match fixes the fields that decide the kind; conversely a word that decodes is its instruction's
word, which is of that instruction's row. -/
theorem kindExactlyWhenRowMatches : Obligations.KindExactlyWhenRowMatches := by
  intro i w
  refine ⟨decode_of_rowMatch, ?_⟩
  rintro ⟨j, hj, hrow⟩
  obtain ⟨-, rfl⟩ := encodeOfDecode w j hj
  exact hrow ▸ encode_rowMatch j

/-- Settles O4: the six groups are six values of `op`; under the other ten every word is of some kind. -/
theorem unknownWordsByGroup : Obligations.UnknownWordsByGroup := by
  intro w
  obtain ⟨op, x, y, n, rfl⟩ : ∃ op x y n, w = packNibbles op x y n := ⟨_, _, _, _, (pack_fields w).symm⟩
  simp only [decode_pack, fieldOp_pack, fieldN_pack, loByte_pack]
  cases op using nibble_cases with
  | is0 => simpa using classify_op0_error_iff x y n
  | is5 | is9 => simpa using classify_op5_op9_error_iff (by decide) x y n
  | is8 => simpa using classify_op8_error_iff x y n
  | isE => simpa using classify_opE_error_iff x y n
  | isF => simpa using classify_opF_error_iff x y n
  | is1 | is2 | is3 | is4 | is6 | is7 | isA | isB | isC | isD => simp [classify]

/-- Settles O5: the three words are those of the three instructions, so `decodeOfEncode` reads them back. -/
theorem documentWordsDecode : Obligations.DocumentWordsDecode :=
  ⟨decodeOfEncode .cls rfl, decodeOfEncode (.ldI 0x123) rfl, decodeOfEncode (.drw 0 1 5) rfl, by decide⟩

end Sys2Proof
end

section
/-! PROOFS. The step on an Unknown word (30_encoding.md R99). -/

namespace Sys2Proof.Machine

theorem step_of_agenda_nil {s : State} (h : s.agenda = []) : step s = engineStep s := by
  obtain ⟨-, hs⟩ | ⟨a, rest, hcons, -⟩ := step_cases s
  · exact hs
  · simp [h] at hcons

theorem engineStep_of_unknown {s : State} {w : Word} {r : Reject} (hh : s.halt = none) (hf : s.fetch = .ok w)
    (hd : decode w = .error r) : engineStep s = unknownWord w s := by
  simpa [hh, hf, hd] using engineStep_cases s

/-- Settles O9: the step is the Engine's reaction to an Unknown word, in the two settings of `UNKNOWN_FATAL`. -/
theorem unknownWordHaltsOrAdvances : Obligations.UnknownWordHaltsOrAdvances := by
  intro s w r hhalt hagenda hfetch hdecode
  rw [step_of_agenda_nil hagenda, engineStep_of_unknown hhalt hfetch hdecode, unknownWord]
  split <;> rfl

end Sys2Proof.Machine
end

section
/-! PROOFS. Control flow (40_control_flow.md R120 to R134): the fetch and its bound, the step that runs what it fetched,
that an error writes nothing, and the jumps, the call, the return and the compares. -/

namespace Sys2Proof.Machine

/-! ### The fetch (R120) -/

/-- The word at `PC`, high byte first, unless one of its two bytes is out of bounds (20_memory.md R67, R71). -/
theorem fetch_eq (s : State) :
    s.fetch = if 0x0FFE < s.pc.toNat then .error (if 0x0FFF < s.pc.toNat then s.pc else s.pc + 1)
      else .ok (s.wordAt s.pc.toNat) := by
  split
  case isTrue hout =>
    have hinfo : BitVec.ofNat 16 (max s.pc.toNat ramSize) = if 0x0FFF < s.pc.toNat then s.pc else s.pc + 1 := by
      split
      · rw [Nat.max_eq_left (by simp only [ramSize]; omega), BitVec.ofNat_toNat, BitVec.setWidth_eq]
      · rw [Nat.max_eq_right (by simp only [ramSize]; omega), ramSize]
        bv_omega
    have hrange := (rangeError_some_iff s.pc.toNat 2 _).mpr ⟨by omega, by simp only [ramSize]; omega, rfl⟩
    rw [State.fetch, hrange, hinfo]
  case isFalse hin =>
    exact (fetch_eq_ok_iff s _).mpr ⟨by simp only [ramSize]; omega, rfl⟩

/-! ### The step (R121, R123, R124) -/

theorem step_of_agenda_step {s : State} {rest : List Action} (h : s.agenda = .step :: rest) :
    step s = engineStep { s with agenda := rest } :=
  agendaHeadActs s .step rest h

theorem engineStep_of_fetch_error {s : State} {info : Word} (hh : s.halt = none) (hf : s.fetch = .error info) :
    engineStep s = .next (s.halted .outOfBoundsAccess info) := by
  simpa [hh, hf] using engineStep_cases s

theorem engineStep_of_decode {s : State} {w : Word} {i : Instr} (hh : s.halt = none) (hf : s.fetch = .ok w)
    (hd : decode w = .ok i) : engineStep s = exec i s := by
  simpa [hh, hf, hd] using engineStep_cases s

/-- An instruction that halts the core has written nothing: only an error halts, and it is raised on the state the
instruction found. -/
theorem exec_next_of_halts {i : Instr} {s t : State} (hh : s.halt = none) (h : exec i s = .next t)
    (ht : t.halt ≠ none) : ∃ k info, t = s.halted k info := by
  obtain ⟨k, info, hraise⟩ | ⟨e, u, hu, hcomplete⟩ := exec_raisesOrCompletes i s
  · exact ⟨k, info, (Host.Outcome.next.inj (hraise.symm.trans h)).symm⟩
  · obtain ⟨stack, sp, pc, rfl⟩ := complete_next_finish (hcomplete.symm.trans h)
    exact absurd (hu.halt.trans hh) ht

/-- A `Step` that halts the core writes `HALT` and the report, and nothing else (60_exceptions.md R256). -/
theorem engineStep_next_of_halts {s t : State} (hh : s.halt = none) (h : engineStep s = .next t) (ht : t.halt ≠ none) :
    t = { s with halt := t.halt, effect := none, unknownEvent := t.unknownEvent } := by
  obtain ⟨hhalt, -⟩ | ⟨-, info, -, hs⟩ | ⟨-, w, i, -, -, hs⟩ | ⟨-, w, r, -, -, hs⟩ := engineStep_cases s
  · simp [hh] at hhalt
  · cases hs.symm.trans h
    rfl
  · obtain ⟨k, info, rfl⟩ := exec_next_of_halts hh (hs.symm.trans h) ht
    rfl
  · obtain ⟨-, rfl⟩ | ⟨-, rfl⟩ := unknownWord_next (hs.symm.trans h)
    · rfl
    · exact absurd hh ht

/-! ### The instructions (R125, R127, R130 to R134) -/

theorem execRet_of_empty {s : State} (h : s.sp = 0) : exec .ret s = .next (s.halted .stackUnderflow s.pc) :=
  if_pos h

theorem execCall_of_full (nnn : Addr12) {s : State} (h : s.sp = s.cfg.stackDepth) :
    exec (.call nnn) s = .next (s.halted .stackOverflow s.pc) :=
  if_pos h

/-- The sum of a jump with offset fits in `PC`: nothing is reduced (R130). -/
theorem jumpOffsetTarget_toNat (s : State) (nnn : Addr12) (x : Reg) :
    (jumpOffsetTarget s nnn x).toNat = nnn.toNat + (s.getV (if s.cfg.jumpOffsetVX then x else 0)).toNat := by
  unfold jumpOffsetTarget
  generalize s.getV _ = offset
  have hbase := nnn.isLt
  have hoffset := offset.isLt
  have hsum : (imm12 nnn).toNat + (zext16 offset).toNat < 2 ^ 16 := by rw [imm12_toNat, zext16_toNat]; omega
  rw [BitVec.toNat_add_of_lt hsum, imm12_toNat, zext16_toNat]

/-- A skip on a comparison's result is a skip on what was compared. -/
theorem skipIf_of_iff {b : Bool} {p : Prop} [Decidable p] (h : b = true ↔ p) (s : State) :
    skipIf b s = .next (skipped p s) := by
  obtain rfl : b = decide p := Bool.eq_iff_iff.mpr (by simpa using h)
  rw [skipIf_eq]
  cases decide p <;> rfl

/-! ### The obligations -/

/-- Settles O10: the Engine's step halts the core only by an error, and does nothing on a halted one. -/
theorem errorsWriteNothing : Obligations.ErrorsWriteNothing := by
  intro s t hagenda h
  rw [step_of_agenda_nil hagenda] at h
  exact ⟨fun hh ht => engineStep_next_of_halts hh h ht, fun hh => engineStep_halted hh h⟩

/-- Settles O6: in bounds the fetch answers the word at `PC`; neither it nor `HALT` depends on the agenda. -/
theorem stepRunsDecodedInstruction : Obligations.StepRunsDecodedInstruction := by
  intro s i hh hpc hd
  have hfetch (u : State) (hu : u.pc = s.pc) : u.fetch = .ok (u.wordAt s.pc.toNat) := by
    rw [fetch_eq, hu, if_neg (by omega)]
  refine ⟨fun hnil => ?_, fun rest hcons => ?_⟩
  · rw [step_of_agenda_nil hnil]
    exact engineStep_of_decode hh (hfetch s rfl) hd
  · rw [step_of_agenda_step hcons]
    exact engineStep_of_decode hh (hfetch _ rfl) hd

/-- Settles O8: `fetch_eq`, and the step whose fetch fails. -/
theorem fetchBigEndianOrOutOfBounds : Obligations.FetchBigEndianOrOutOfBounds := by
  intro s
  refine ⟨fetch_eq s, fun hh hnil hout => ?_⟩
  rw [step_of_agenda_nil hnil]
  exact engineStep_of_fetch_error hh ((fetch_eq s).trans (if_pos hout))

/-- Settles O13: the two cases of a return, by `SP`. -/
theorem returnPopsOrUnderflows : Obligations.ReturnPopsOrUnderflows :=
  fun _ => ⟨execRet_of_empty, fun _ hsp htop => execRet_of_top hsp htop⟩

/-- Settles O14: the target is `imm12 nnn`, which has the value of `nnn`. -/
theorem jumpLoadsTarget : Obligations.JumpLoadsTarget :=
  fun nnn s => ⟨imm12 nnn, imm12_toNat nnn, complete_jump s _⟩

/-- Settles O15: with the stack's shape, room below the bound is a free slot. -/
theorem callPushesOrOverflows : Obligations.CallPushesOrOverflows :=
  fun nnn _ hs => ⟨execCall_of_full nnn, fun hroom => ⟨imm12 nnn, imm12_toNat nnn, execCall_of_room hs hroom⟩⟩

/-- Settles O16: the sum is below 2^16. -/
theorem jumpWithOffsetAddsRegister : Obligations.JumpWithOffsetAddsRegister :=
  fun nnn x s => ⟨jumpOffsetTarget s nnn x, jumpOffsetTarget_toNat s nnn x, complete_jump s _⟩

/-- Settles O17: each compare is a `skipIf` on its own test. -/
theorem comparesSkipOrAdvance : Obligations.ComparesSkipOrAdvance :=
  fun _ _ _ s => ⟨skipIf_of_iff beq_iff_eq s, skipIf_of_iff bne_iff_ne s, skipIf_of_iff beq_iff_eq s,
    skipIf_of_iff bne_iff_ne s⟩

end Sys2Proof.Machine
end

section
/-! PROOFS. The ALU datapath (41_alu.md R150 to R162): the three ways an ALU instruction writes its result, the values
of the results and flags, and the seven statements. -/

namespace Sys2Proof.Machine

/-! ### How a result is written (R152) -/

/-- Writes that leave `PC` and `HALT`, then the end of the step. -/
theorem advances_finish {s u : State} (hpc : u.pc = s.pc) (hhalt : u.halt = s.halt) :
    advances s (u.finish (u.pc + 2) .advance) :=
  ⟨congrArg (· + 2) hpc, rfl, rfl, hhalt⟩

/-- Writes that leave the registers, then one register, then the end of the step. -/
theorem onlyReg_setV_finish {s u : State} {x : Reg} {b : Byte} {pc : Word} {e : Effect} (hv : u.v = s.v) :
    onlyReg x s ((u.setV x b).finish pc e) := by
  intro r hr
  calc ((u.setV x b).finish pc e).getV r
    _ = u.getV r := u.getV_setV_ne x r b hr
    _ = s.getV r := congrArg (·.get r) hv

/-- An instruction that writes the result and then the flag: VF ends as the flag even when it is the destination (R23,
R152). -/
theorem exec_next_of_flagged {i : Instr} {s : State} {x : Reg} {b f : Byte} {flag : Bool} {n : Nat}
    (hi : exec i s = complete .advance ((s.setV x b).setVF flag)) (hflag : flagByte flag = f) (hresult : b.toNat = n) :
    ∃ t, exec i s = .next t ∧ t.getV vf = f ∧ (x ≠ vf → (t.getV x).toNat = n) ∧ onlyRegAndVF x s t ∧
      advances s t := by
  refine ⟨_, hi, ?flag, ?result, ?frame, advances_finish rfl rfl⟩
  case flag => simp [hflag]
  case result =>
    intro hx
    simp [hx, hresult]
  case frame =>
    intro r hr hvf
    simp [hr, hvf]

/-- A logic instruction, whose result is `bit` of the operands' bits, in the two settings of `LOGIC_RESET_VF` (R153 to
R155). -/
theorem exec_next_of_logic {i : Instr} {s : State} {x y : Reg} {b : Byte} {bit : Bool → Bool → Bool}
    (hi : exec i s = complete .advance (s.setV x b).logicFlag)
    (hbit : ∀ k, b.getLsbD k = bit ((s.getV x).getLsbD k) ((s.getV y).getLsbD k)) :
    ∃ t, exec i s = .next t ∧ advances s t ∧ onlyRegAndVF x s t ∧
      (s.cfg.logicResetVF = false → onlyReg x s t) ∧
      (s.cfg.logicResetVF = true → t.getV vf = 0) ∧
      (s.cfg.logicResetVF = false ∨ x ≠ vf →
        ∀ k < 8, (t.getV x).getLsbD k = bit ((s.getV x).getLsbD k) ((s.getV y).getLsbD k)) := by
  refine ⟨_, hi, advances_finish (by simp) (by simp), ?frame, ?keeps, ?resets, ?result⟩
  case frame =>
    intro r hr hvf
    simp [hr, hvf]
  case keeps =>
    intro hoff r hr
    simp [hoff, hr]
  case resets =>
    intro hon
    simp [hon]
  case result =>
    intro hkept k _
    have hx : ¬ (s.cfg.logicResetVF = true ∧ x = vf) := fun ⟨hon, hvf⟩ => by simp [hon, hvf] at hkept
    simp [hx, hbit]

/-! ### The values of the results and flags (R156 to R161) -/

theorem flagByte_addCarry (a b : Byte) : flagByte (addCarry a b) = if a.toNat + b.toNat ≥ 256 then 1 else 0 := by
  simp [flagByte, addCarry]

theorem flagByte_subNoBorrow (a b : Byte) : flagByte (subNoBorrow a b) = if a.toNat ≥ b.toNat then 1 else 0 := by
  simp [flagByte, subNoBorrow]

/-- The wrapped difference, with the 256 borrowed before the subtraction. -/
theorem byte_sub_toNat (a b : Byte) : (a - b).toNat = (a.toNat + 256 - b.toNat) % 256 := by
  bv_omega

/-- A flag is the whole byte 0x00 or 0x01 (10_state.md R23). -/
theorem flagByte_toNat (b : Bool) : (flagByte b).toNat = b.toNat := by
  cases b <;> rfl

theorem flagByte_shrFlag_toNat (b : Byte) : (flagByte (shrFlag b)).toNat = b.toNat % 2 := by
  rw [flagByte_toNat, shrFlag, BitVec.getLsbD, Nat.toNat_testBit, Nat.pow_zero, Nat.div_one]

theorem flagByte_shlFlag_toNat (b : Byte) : (flagByte (shlFlag b)).toNat = b.toNat / 128 := by
  rw [flagByte_toNat, shlFlag, BitVec.getLsbD, Nat.toNat_testBit]
  omega

theorem byte_shiftRight_one_toNat (b : Byte) : (b >>> 1).toNat = b.toNat / 2 := by
  rw [BitVec.toNat_ushiftRight, Nat.shiftRight_eq_div_pow, Nat.pow_one]

theorem byte_shiftLeft_one_toNat (b : Byte) : (b <<< 1).toNat = b.toNat * 2 % 256 := by
  rw [BitVec.toNat_shiftLeft, Nat.shiftLeft_eq, Nat.pow_one]

/-! ### The obligations -/

/-- Settles O19: each load is one register write. -/
theorem loadsWriteDestination : Obligations.LoadsWriteDestination := fun x y nn s =>
  ⟨⟨_, rfl, s.getV_setV_self x nn, onlyReg_setV_finish rfl, advances_finish rfl rfl⟩,
    ⟨_, rfl, s.getV_setV_self x (s.getV y), onlyReg_setV_finish rfl, advances_finish rfl rfl⟩⟩

/-- Settles O20: `exec_next_of_logic`, with the bits of the three operations. -/
theorem logicWritesResultThenVF : Obligations.LogicWritesResultThenVF := fun _ _ _ =>
  ⟨exec_next_of_logic rfl fun _ => BitVec.getLsbD_or, exec_next_of_logic rfl fun _ => BitVec.getLsbD_and,
    exec_next_of_logic rfl fun _ => BitVec.getLsbD_xor⟩

/-- Settles O21: one register write, of a sum that wraps. -/
theorem addImmediateWraps : Obligations.AddImmediateWraps := by
  intro x nn s
  refine ⟨_, rfl, ?_, onlyReg_setV_finish rfl, advances_finish rfl rfl⟩
  rw [State.getV_finish, State.getV_setV_self, BitVec.toNat_add]

/-- Settles O22: the carry is written after the sum. -/
theorem addRegisterSetsCarry : Obligations.AddRegisterSetsCarry := fun _ _ _ =>
  exec_next_of_flagged rfl (flagByte_addCarry ..) (BitVec.toNat_add ..)

/-- Settles O23: the operands of the subtraction and of its flag, in the two orders. -/
theorem subtractsSetNotBorrow : Obligations.SubtractsSetNotBorrow := fun _ _ _ =>
  ⟨exec_next_of_flagged rfl (flagByte_subNoBorrow ..) (byte_sub_toNat ..),
    exec_next_of_flagged rfl (flagByte_subNoBorrow ..) (byte_sub_toNat ..)⟩

/-- Settles O24: the source is `shiftSource`; the bit shifted out is written after the shifted source. -/
theorem shiftsMoveOneBit : Obligations.ShiftsMoveOneBit := by
  intro x y s src hsrc
  obtain rfl : src = shiftSource s x y := hsrc
  constructor
  · obtain ⟨t, ht, hflag, hrest⟩ :=
      exec_next_of_flagged (i := .shr x y) (s := s) rfl rfl (byte_shiftRight_one_toNat (shiftSource s x y))
    exact ⟨t, ht, hflag ▸ flagByte_shrFlag_toNat _, hrest⟩
  · obtain ⟨t, ht, hflag, hrest⟩ :=
      exec_next_of_flagged (i := .shl x y) (s := s) rfl rfl (byte_shiftLeft_one_toNat (shiftSource s x y))
    exact ⟨t, ht, hflag ▸ flagByte_shlFlag_toNat _, hrest⟩

/-- Settles O25: whatever the draw is, AND with the mask clears the bits outside it. -/
theorem randomStaysInMask : Obligations.RandomStaysInMask := by
  intro x nn s
  have hresult : (State.setV { s with draws := s.draws + 1 } x (Config.freeDraw s.draws &&& nn)).getV x =
      Config.freeDraw s.draws &&& nn := State.getV_setV_self ..
  refine ⟨_, rfl, hresult, ?_, rfl, onlyReg_setV_finish rfl, advances_finish rfl rfl⟩
  rw [State.getV_finish, hresult, BitVec.and_assoc, BitVec.and_not_self]
  exact BitVec.and_zero

end Sys2Proof.Machine
end

section
/-! PROOFS. The display (42_display.md R180 to R186): the cells a sprite targets are all different, so a draw flips
each of them once; who writes the framebuffer; and the six statements. -/

namespace Sys2Proof.Machine

/-! ### The cells a sprite targets (R181, R182) -/

/-- The set bits of one sprite row target different cells: the framebuffer is at least 8 wide (00_scope.md R6). -/
theorem spriteRowCells_nodup (c : Config) (px py k : Nat) (b : Byte) : (spriteRowCells c px py k b).Nodup := by
  refine List.Nodup.map_on (fun i hi j hj hcell => ?_) (List.nodup_range.filter _)
  have hlt : ∀ col ∈ (List.range 8).filter fun col => b.getLsbD (7 - col), col < c.fbW := fun col hcol =>
    Nat.lt_of_lt_of_le (List.mem_range.mp (List.mem_of_mem_filter hcol)) c.fbW_ge
  have hcol : px + i ≡ px + j [MOD c.fbW] := (Prod.mk.inj hcell).2
  exact (hcol.add_left_cancel' px).eq_of_lt_of_lt (hlt i hi) (hlt j hj)

theorem row_of_mem_spriteRowCells {c : Config} {px py k : Nat} {b : Byte} {cell : Nat × Nat}
    (h : cell ∈ spriteRowCells c px py k b) : cell.1 = (py + k) % c.fbH := by
  obtain ⟨col, -, rfl⟩ := List.mem_map.mp h
  rfl

/-- No cell is targeted twice: the framebuffer is at least as high as the sprite. -/
theorem spriteCells_nodup {c : Config} {n : Nat} (hn : n ≤ c.fbH) (ram : Memory) (base px py : Nat) :
    (spriteCells c ram base px py n).Nodup := by
  refine List.nodup_flatMap.mpr ⟨fun k _ => spriteRowCells_nodup .., ?_⟩
  refine List.nodup_range.imp_of_mem fun {j k} hj hk hne cell hcellj hcellk => hne ?_
  have hlt : ∀ k ∈ List.range n, k < c.fbH := fun k hk => Nat.lt_of_lt_of_le (List.mem_range.mp hk) hn
  have hrow : py + j ≡ py + k [MOD c.fbH] :=
    (row_of_mem_spriteRowCells hcellj).symm.trans (row_of_mem_spriteRowCells hcellk)
  exact (hrow.add_left_cancel' py).eq_of_lt_of_lt (hlt j hj) (hlt k hk)

theorem spriteCells_in_bounds {c : Config} {ram : Memory} {base px py n : Nat} :
    ∀ cell ∈ spriteCells c ram base px py n, cell.1 < c.fbH ∧ cell.2 < c.fbW := by
  rintro ⟨row, col⟩ h
  obtain ⟨k, j, -, -, -, rfl, rfl⟩ := (mem_spriteCells ..).mp h
  have hheight := c.fbH_ge
  have hwidth := c.fbW_ge
  exact ⟨Nat.mod_lt _ (by omega), Nat.mod_lt _ (by omega)⟩

/-- The cells a draw goes through are those targeted. -/
theorem mem_spriteCells_iff_targeted (s : State) (x y : Reg) (n : Nibble) (row col : Nat) :
    (row, col) ∈ spriteCells s.cfg s.ram s.i.toNat (s.getV x).toNat (s.getV y).toNat n.toNat ↔
      targeted s x y n row col :=
  mem_spriteCells ..

/-- What is targeted depends on the parameters, `I`, V[x], V[y] and the sprite's bytes alone (R181, R182). -/
theorem targeted_congr {s u : State} {x y : Reg} {n : Nibble} (hcfg : u.cfg = s.cfg) (hi : u.i = s.i)
    (hx : u.getV x = s.getV x) (hy : u.getV y = s.getV y)
    (hbytes : ∀ k < n.toNat, u.ram.read (s.i.toNat + k) = s.ram.read (s.i.toNat + k)) (row col : Nat) :
    targeted u x y n row col ↔ targeted s x y n row col := by
  unfold targeted
  rw [hcfg, hi, hx, hy]
  refine exists_congr fun k => exists_congr fun c => and_congr_right fun hk => ?_
  rw [hbytes k hk]

/-! ### A draw (R183, R184) -/

/-- The state a draw that raises no error leaves (`exec_drw_of_fits`). -/
def State.drawn (s : State) (x y : Reg) (n : Nibble) : State :=
  (State.setVF { s with fb := (drawSprite s x y n).1, dirty := true } (drawSprite s x y n).2).finish (s.pc + 2) .advance

/-- A draw with no rows, or with its last sprite byte in RAM, completes. -/
theorem exec_drw_of_fits {s : State} {n : Nibble} (hfits : n = 0 ∨ s.i.toNat + n.toNat - 1 ≤ 0x0FFF) (x y : Reg) :
    exec (.drw x y n) s = .next (s.drawn x y n) := by
  have hcheck : rangeError s.i.toNat n.toNat = none := by
    rw [rangeError_none_iff, ramSize]
    obtain rfl | hlast := hfits
    · exact .inl rfl
    · omega
  simp only [exec, execDrw, hcheck, complete_advance]
  rfl

theorem exec_drw_of_out_of_bounds {s : State} {n : Nibble} (hn : 0 < n.toNat)
    (hout : 0x0FFF < s.i.toNat + n.toNat - 1) (x y : Reg) :
    exec (.drw x y n) s = .next (s.halted .outOfBoundsAccess (BitVec.ofNat 16 (max s.i.toNat ramSize))) := by
  have hcheck := (rangeError_some_iff s.i.toNat n.toNat _).mpr ⟨hn, by rw [ramSize]; omega, rfl⟩
  simp only [exec, execDrw, hcheck, raise_eq]

theorem State.advances_drawn (s : State) (x y : Reg) (n : Nibble) : advances s (s.drawn x y n) :=
  advances_finish rfl rfl

theorem State.getV_vf_drawn (s : State) (x y : Reg) (n : Nibble) :
    (s.drawn x y n).getV vf = flagByte (drawSprite s x y n).2 := by
  simp [State.drawn]

section
variable {s : State} (hs : s.fbOk) (x y : Reg) (n : Nibble)
include hs

theorem State.fbOk_drawn : (s.drawn x y n).fbOk := drawCells_shaped s.cfg s.fb _ hs

/-- `foldl_drawPixel_spec` for the cells of a sprite, which are all different and inside the framebuffer. -/
theorem drawSprite_spec :
    (∀ row col, (targeted s x y n row col → (drawSprite s x y n).1.cell row col = !s.fb.cell row col) ∧
      (¬ targeted s x y n row col → (drawSprite s x y n).1.cell row col = s.fb.cell row col)) ∧
    ((drawSprite s x y n).2 = true ↔ ∃ row col, targeted s x y n row col ∧ s.fb.cell row col = true) := by
  have hrows : n.toNat ≤ s.cfg.fbH := Nat.le_trans (Nat.le_of_lt_succ n.isLt) s.cfg.fbH_ge
  obtain ⟨hcell, hhit⟩ := foldl_drawPixel_spec s.cfg _ (spriteCells_nodup hrows s.ram s.i.toNat (s.getV x).toNat
    (s.getV y).toNat) spriteCells_in_bounds s.fb false hs
  refine ⟨fun row col => ⟨fun ht => ?flips, fun ht => ?stays⟩, ?hit⟩
  case flips => exact (hcell row col).trans (if_pos ((mem_spriteCells_iff_targeted ..).mpr ht))
  case stays => exact (hcell row col).trans (if_neg (mt (mem_spriteCells_iff_targeted ..).mp ht))
  case hit =>
    simp only [Bool.false_eq_true, false_or, Prod.exists, mem_spriteCells_iff_targeted] at hhit
    exact hhit

theorem State.cell_drawn_of_targeted {row col : Nat} (ht : targeted s x y n row col) :
    (s.drawn x y n).fb.cell row col = !s.fb.cell row col :=
  ((drawSprite_spec hs x y n).1 row col).1 ht

theorem State.cell_drawn_of_not_targeted {row col : Nat} (ht : ¬ targeted s x y n row col) :
    (s.drawn x y n).fb.cell row col = s.fb.cell row col :=
  ((drawSprite_spec hs x y n).1 row col).2 ht

/-- Some targeted cell was lit. -/
theorem State.getV_vf_drawn_of_lit (h : ∃ row col, targeted s x y n row col ∧ s.fb.cell row col = true) :
    (s.drawn x y n).getV vf = 1 := by
  rw [State.getV_vf_drawn, (drawSprite_spec hs x y n).2.mpr h]
  rfl

/-- Every targeted cell was dark. -/
theorem State.getV_vf_drawn_of_dark (h : ∀ row col, targeted s x y n row col → s.fb.cell row col = false) :
    (s.drawn x y n).getV vf = 0 := by
  have hmiss : (drawSprite s x y n).2 = false := by
    refine Bool.eq_false_iff.mpr fun hhit => ?_
    obtain ⟨row, col, ht, hlit⟩ := (drawSprite_spec hs x y n).2.mp hhit
    simp [h row col ht] at hlit
  rw [State.getV_vf_drawn, hmiss]
  rfl

end

/-! ### The writers of the framebuffer (R180, R186) -/

theorem Framebuffer.cell_clear (c : Config) (row col : Nat) : (Framebuffer.clear c).cell row col = false := by
  simp only [Framebuffer.cell, Framebuffer.clear, List.getD_eq_getElem?_getD, List.getElem?_replicate]
  split
  · simp only [Option.getD_some, List.getElem?_replicate]
    split <;> rfl
  · rfl

/-- A `Step` changes the framebuffer only by `CLS` or `DRW`. -/
theorem engineStep_fb {s t : State} (h : engineStep s = .next t) (hne : t.fb ≠ s.fb) :
    ∃ w, s.fetch = .ok w ∧ (decode w = .ok .cls ∨ ∃ x y n, decode w = .ok (.drw x y n)) := by
  obtain ⟨-, w, i, hf, hi, hexec⟩ | hsame := engineStep_next h
  · by_contra hother
    have hcls : i ≠ .cls := fun e => hother ⟨w, hf, .inl (e ▸ hi)⟩
    have hdrw : ∀ x y n, i ≠ .drw x y n := fun x y n e => hother ⟨w, hf, .inr ⟨x, y, n, e ▸ hi⟩⟩
    exact hne ((exec_framed i s t hexec).display hcls hdrw).1
  · rw [hsame] at hne
    exact absurd rfl hne

/-! ### The obligations -/

/-- Settles O27: the targeted cells are all different, so each of them flips once. -/
theorem drawFlipsExactlyTargets : Obligations.DrawFlipsExactlyTargets := fun x y n s hs hfits =>
  ⟨_, exec_drw_of_fits hfits x y, rfl, s.advances_drawn x y n, (drawSprite_spec hs x y n).1⟩

/-- Settles O28: no cell flips twice, so a hit is a cell that was lit before the draw. -/
theorem collisionFlagExactly : Obligations.CollisionFlagExactly := fun x y n _ hs hfits =>
  ⟨_, exec_drw_of_fits hfits x y, State.getV_vf_drawn_of_lit hs x y n, State.getV_vf_drawn_of_dark hs x y n⟩

/-- Settles O29: the second draw targets the same cells, each of which is now the complement of what it was. -/
theorem drawingTwiceRestores : Obligations.DrawingTwiceRestores := by
  intro x y n s t u hs hfits ht hfb hcfg hi hx hy hbytes
  obtain rfl : s.drawn x y n = t := Host.Outcome.next.inj ((exec_drw_of_fits hfits x y).symm.trans ht)
  have htarget := targeted_congr hcfg hi hx hy hbytes
  have hflip {row col : Nat} (h : targeted u x y n row col) : u.fb.cell row col = !s.fb.cell row col :=
    hfb ▸ State.cell_drawn_of_targeted hs x y n ((htarget row col).mp h)
  have hu : u.fbOk := by
    rw [State.fbOk, hfb, hcfg]
    exact State.fbOk_drawn hs x y n
  refine ⟨_, exec_drw_of_fits (hi ▸ hfits) x y, ?restored, ?lit, ?dark⟩
  case restored =>
    have hshape : (u.drawn x y n).fb.shaped s.cfg := hcfg ▸ State.fbOk_drawn hu x y n
    refine Framebuffer.ext_cells s.cfg _ _ hshape hs fun row col => ?_
    by_cases h : targeted u x y n row col
    · rw [State.cell_drawn_of_targeted hu x y n h, hflip h, Bool.not_not]
    · rw [State.cell_drawn_of_not_targeted hu x y n h, hfb,
        State.cell_drawn_of_not_targeted hs x y n (mt (htarget row col).mpr h)]
  case lit =>
    rintro ⟨row, col, h, hdark⟩
    have h' := (htarget row col).mpr h
    exact State.getV_vf_drawn_of_lit hu x y n ⟨row, col, h', by rw [hflip h', hdark]; rfl⟩
  case dark =>
    intro hlit
    refine State.getV_vf_drawn_of_dark hu x y n fun row col h => ?_
    rw [hflip h, hlit row col ((htarget row col).mp h)]
    rfl

/-- Settles O55: of the other agents' actions only a reset writes the framebuffer, and a `Step` only by `CLS` or
`DRW`. -/
theorem framebufferWriters : Obligations.FramebufferWriters := by
  intro s t h hne
  rw [step_eq_act] at h
  obtain ⟨-, hs⟩ | ⟨-, rfl⟩ | ⟨-, rfl⟩ | ⟨k, -, rfl⟩ | ⟨k, -, rfl⟩ | ⟨-, rfl⟩ | ⟨rom, launch, ha, -⟩ := act_next h
  · exact .inr (engineStep_fb (s := s.popAgenda) hs hne)
  · obtain ⟨d, dt, st, hd⟩ := clkEdge_writes_timers s.popAgenda
    exact absurd (hd ▸ rfl) hne
  · obtain ⟨dt, st, hd⟩ := tick_writes_timers s.popAgenda
    exact absurd (hd ▸ rfl) hne
  · exact absurd rfl hne
  · exact absurd rfl hne
  · exact absurd rfl hne
  · exact .inl ⟨rom, launch, _, agenda_eq_cons ha (by simp)⟩

/-- Settles O26: the cleared framebuffer has the shape, and no cell of it is lit. -/
theorem clearScreenZeroesEveryCell : Obligations.ClearScreenZeroesEveryCell := fun s =>
  ⟨_, rfl, Framebuffer.clear_shaped s.cfg, fun row _ col _ => Framebuffer.cell_clear s.cfg row col, rfl, rfl,
    advances_finish rfl rfl⟩

/-- Settles O30: the bounds check fails before anything is drawn; with no rows it passes and there is no pixel. -/
theorem drawEdgeCases : Obligations.DrawEdgeCases := fun x y _ s =>
  ⟨fun hn hout => exec_drw_of_out_of_bounds hn hout x y,
    _, exec_drw_of_fits (.inl rfl) x y, rfl, s.getV_vf_drawn x y 0, rfl, s.advances_drawn x y 0⟩

end Sys2Proof.Machine
end

section
/-! PROOFS. The keypad (43_keypad.md R200, R201, R203): the skips on a key's level, by whether V[x] names a key, and
the key-wait, by the mode and the latch it finds. -/

namespace Sys2Proof.Machine

/-! ### The skips (R200, R201) -/

/-- A value above 15 is no key (D16). -/
theorem keyIndex_eq_none {b : Byte} (h : 15 < b.toNat) : keyIndex b = none :=
  dif_neg (by omega)

section
variable {x : Reg} {s : State}

theorem exec_skp_of_no_key (h : 15 < (s.getV x).toNat) :
    exec (.skp x) s = .next (s.halted .outOfBoundsAccess (zext16 (s.getV x))) := by
  simp only [exec, execSkp, keyIndex_eq_none h, raise_eq]

theorem exec_sknp_of_no_key (h : 15 < (s.getV x).toNat) :
    exec (.sknp x) s = .next (s.halted .outOfBoundsAccess (zext16 (s.getV x))) := by
  simp only [exec, execSknp, keyIndex_eq_none h, raise_eq]

theorem exec_skp_of_key {k : Key} (h : (s.getV x).toNat = k.val) : exec (.skp x) s = skipIf (s.key.get k) s := by
  simp only [exec, execSkp, (keyIndex_eq _ k).mpr h]

theorem exec_sknp_of_key {k : Key} (h : (s.getV x).toNat = k.val) : exec (.sknp x) s = skipIf (!s.key.get k) s := by
  simp only [exec, execSknp, (keyIndex_eq _ k).mpr h]

/-! ### The key-wait (R203) -/

/-- The arming invocation. -/
theorem exec_ldVxK_of_running (hmode : s.mode = .running) :
    exec (.ldVxK x) s = complete .wait
      { s with latch := if s.cfg.armClearsLatch then none else s.latch, mode := .awaitingKey } := by
  simp only [exec, execLdVxK, hmode]

/-- A poll that finds no key. -/
theorem exec_ldVxK_of_no_latch (hmode : s.mode = .awaitingKey) (hlatch : s.latch = none) :
    exec (.ldVxK x) s = complete .wait s := by
  simp only [exec, execLdVxK, hmode, hlatch]

/-- The completing poll. -/
theorem exec_ldVxK_of_latch {k : Key} (hmode : s.mode = .awaitingKey) (hlatch : s.latch = some k) :
    exec (.ldVxK x) s =
      complete .advance (State.setV { s with latch := none, mode := .running } x (BitVec.ofNat 8 k.val)) := by
  simp only [exec, execLdVxK, hmode, hlatch]

end

/-- A key's number fits in a register. -/
theorem key_byte_toNat (k : Key) : (BitVec.ofNat 8 k.val).toNat = k.val :=
  Nat.mod_eq_of_lt (Nat.lt_trans k.isLt (by decide))

/-- Writes that leave `PC` and `HALT`, then a wait at the same `PC` (40_control_flow.md R122). -/
theorem waits_finish {s u : State} (hpc : u.pc = s.pc) (hhalt : u.halt = s.halt) : waits s (u.finish u.pc .wait) :=
  ⟨hpc, rfl, rfl, hhalt⟩

/-! ### The obligations -/

/-- Settles O31: above 15 both skips raise the same error; on a key each is a `skipIf` on its own level. -/
theorem keySkipsReadLevel : Obligations.KeySkipsReadLevel := by
  intro x s
  refine ⟨fun hno => ⟨exec_skp_of_no_key hno, exec_sknp_of_no_key hno⟩, fun k hk => ⟨?skp, ?sknp⟩⟩
  case skp =>
    rw [exec_skp_of_key hk]
    exact skipIf_of_iff Iff.rfl s
  case sknp =>
    rw [exec_sknp_of_key hk]
    exact skipIf_of_iff (Iff.of_eq (Bool.not_eq_true' _)) s

/-- Settles O32: the three invocations, by the mode and the latch. -/
theorem keyWaitProtocol : Obligations.KeyWaitProtocol := by
  intro x s
  refine ⟨fun hmode => ?arm, fun hmode hlatch => ?poll, fun k hmode hlatch => ?deliver⟩
  case arm => exact ⟨_, exec_ldVxK_of_running hmode, rfl, rfl, rfl, waits_finish rfl rfl⟩
  case poll => exact ⟨_, exec_ldVxK_of_no_latch hmode hlatch, hmode, hlatch, rfl, waits_finish rfl rfl⟩
  case deliver =>
    refine ⟨_, exec_ldVxK_of_latch hmode hlatch, rfl, rfl, ?_, onlyReg_setV_finish rfl, advances_finish rfl rfl⟩
    rw [State.getV_finish, State.getV_setV_self, key_byte_toNat]

end Sys2Proof.Machine
end

section
/-! PROOFS. Timers, index register, RAM at `I` (44_timer_index_memory.md R220 to R236): the sound line and the values
written to `I`, the bounds check of the three instructions that access RAM at `I`, what each of them then does, and the
six statements. -/

namespace Sys2Proof.Machine

/-! ### The sound line and the values of `I` (R222, R226, R227) -/

/-- The sound line is 1 exactly when ST is not 0 (60_exceptions.md R275). -/
theorem State.soundOn_iff (s : State) : s.soundOn = true ↔ s.st ≠ 0 := by
  rw [State.soundOn, decide_eq_true_iff, Nat.pos_iff_ne_zero]
  exact not_congr (BitVec.toNat_inj (y := 0))

/-- The offset to `I` is the register's value; the sum wraps. -/
theorem add_zext16_toNat (i : Word) (b : Byte) : (i + zext16 b).toNat = (i.toNat + b.toNat) % 65536 := by
  rw [BitVec.toNat_add, zext16_toNat]

/-- Five times a byte fits in `I`: the font address does not wrap (D17). -/
theorem fontAddress_toNat (b : Byte) : (fontAddress b).toNat = 5 * b.toNat := by
  have hb := b.isLt
  have hmul : (fontAddress b).toNat = 5 * b.toNat % 2 ^ 16 := by
    rw [fontAddress, BitVec.toNat_mul, zext16_toNat]
    rfl
  omega

/-! ### The bounds check, by the last address (20_memory.md R71) -/

theorem rangeError_of_last_in_ram {base last : Nat} (h : base + last ≤ 0x0FFF) : rangeError base (last + 1) = none :=
  (rangeError_none_iff ..).mpr (.inr (Nat.succ_le_succ h))

theorem rangeError_of_last_outside {base last : Nat} (h : 0x0FFF < base + last) :
    rangeError base (last + 1) = some (BitVec.ofNat 16 (max base ramSize)) :=
  (rangeError_some_iff ..).mpr ⟨Nat.succ_pos last, Nat.succ_lt_succ h, rfl⟩

/-! ### The three instructions that access RAM at `I` (R231, R233, R235) -/

section
variable {x : Reg} {s : State}

theorem exec_ldBVx_of_fits (hfits : s.i.toNat + 2 ≤ 0x0FFF) :
    exec (.ldBVx x) s =
      complete .advance { s with ram := s.ram.writeBytes s.i.toNat (bcdDigits (s.getV x)) } := by
  simp only [exec, execLdBVx, rangeError_of_last_in_ram hfits]

theorem exec_ldVxMem_of_fits (hfits : s.i.toNat + x.val ≤ 0x0FFF) :
    exec (.ldVxMem x) s = complete .advance { s with v := loadRegs s.ram s.i.toNat s.v (x.val + 1) } := by
  simp only [exec, execLdVxMem, rangeError_of_last_in_ram hfits]

theorem exec_ldBVx_of_out_of_bounds (hout : 0x0FFF < s.i.toNat + 2) :
    exec (.ldBVx x) s = .next (s.halted .outOfBoundsAccess (BitVec.ofNat 16 (max s.i.toNat ramSize))) := by
  simp only [exec, execLdBVx, rangeError_of_last_outside hout, raise_eq]

theorem exec_ldMemVx_of_out_of_bounds (hout : 0x0FFF < s.i.toNat + x.val) :
    exec (.ldMemVx x) s = .next (s.halted .outOfBoundsAccess (BitVec.ofNat 16 (max s.i.toNat ramSize))) := by
  simp only [exec, execLdMemVx, rangeError_of_last_outside hout, raise_eq]

theorem exec_ldVxMem_of_out_of_bounds (hout : 0x0FFF < s.i.toNat + x.val) :
    exec (.ldVxMem x) s = .next (s.halted .outOfBoundsAccess (BitVec.ofNat 16 (max s.i.toNat ramSize))) := by
  simp only [exec, execLdVxMem, rangeError_of_last_outside hout, raise_eq]

end

/-! ### The bytes stored and loaded -/

/-- After the digits of a byte are stored inside RAM, the j-th address holds the j-th digit; a digit no larger than a
byte is not truncated. -/
theorem read_bcdDigits_toNat {m : Memory} {base j d : Nat} {b : Byte} (hm : m.wf) (hfits : base + 2 ≤ 0x0FFF)
    (hj : j < 3) (hdigit : (bcdDigits b)[j] = BitVec.ofNat 8 d) (hd : d ≤ b.toNat) :
    ((m.writeBytes base (bcdDigits b)).read (base + j)).toNat = d := by
  rw [Memory.read_writeBytes_in m base (bcdDigits b) j hj (Nat.succ_le_succ hfits) hm, hdigit]
  exact Nat.mod_eq_of_lt (Nat.lt_of_le_of_lt hd b.isLt)

/-- V0 to Vx come from RAM, the registers above are kept. -/
theorem loadRegs_get_of_le (m : Memory) (base : Nat) (v : Vector Byte 16) (x r : Reg) :
    (loadRegs m base v (x.val + 1)).get r = if r ≤ x then m.read (base + r.val) else v.get r := by
  simp only [loadRegs_get, Nat.lt_succ_iff, Fin.le_def]

/-! ### The obligations -/

/-- Settles O39: the load reads the bytes the dump stored. -/
theorem loadUndoesDump : Obligations.LoadUndoesDump := by
  intro x s t u hram hfits hdump hsame hi
  cases (execLdMemVx_of_fits hfits).symm.trans hdump
  refine ⟨_, exec_ldVxMem_of_fits (hi ▸ hfits), fun q hq => ?_⟩
  calc (loadRegs u.ram u.i.toNat u.v (x.val + 1)).get q
    _ = u.ram.read (u.i.toNat + q.val) := (loadRegs_get_of_le ..).trans (if_pos hq)
    _ = (s.ram.writeBytes s.i.toNat (dumpBytes s x)).read (s.i.toNat + q.val) := by rw [hsame, hi]; rfl
    _ = s.getV q := read_dumpBytes hram hfits hq

/-- Settles O34: each copy is one write. -/
theorem timerCopies : Obligations.TimerCopies := fun x s =>
  ⟨⟨_, rfl, s.getV_setV_self x s.dt, rfl, rfl, onlyReg_setV_finish rfl, advances_finish rfl rfl⟩,
    ⟨_, rfl, rfl, rfl, rfl, advances_finish rfl rfl⟩,
    ⟨_, rfl, rfl, rfl, rfl, State.soundOn_iff _, advances_finish rfl rfl⟩⟩

/-- Settles O35: each instruction is one write of `I`, of a value with a lemma of its own. -/
theorem indexWrites : Obligations.IndexWrites := fun x nnn s =>
  ⟨⟨_, rfl, imm12_toNat nnn, advances_finish rfl rfl⟩,
    ⟨_, rfl, add_zext16_toNat s.i (s.getV x), rfl, advances_finish rfl rfl⟩,
    ⟨_, rfl, fontAddress_toNat (s.getV x), advances_finish rfl rfl⟩⟩

/-- Settles O36: no digit is larger than the byte. -/
theorem bcdDigitsStored : Obligations.BcdDigitsStored := by
  intro x s hram
  refine ⟨fun hfits => ⟨_, exec_ldBVx_of_fits hfits, ?hundreds, ?tens, ?units, rfl, rfl, advances_finish rfl rfl⟩,
    fun hout => exec_ldBVx_of_out_of_bounds hout⟩
  case hundreds => exact read_bcdDigits_toNat (j := 0) hram hfits (by decide) rfl (Nat.div_le_self ..)
  case tens =>
    exact read_bcdDigits_toNat (j := 1) hram hfits (by decide) rfl ((Nat.mod_le ..).trans (Nat.div_le_self ..))
  case units => exact read_bcdDigits_toNat (j := 2) hram hfits (by decide) rfl (Nat.mod_le ..)

/-- Settles O37: the dump of `read_dumpBytes`, or the failing check before it. -/
theorem registerDumpStores : Obligations.RegisterDumpStores := fun _ _ hram =>
  ⟨fun hfits => ⟨_, execLdMemVx_of_fits hfits, fun _ hr => read_dumpBytes hram hfits hr, rfl, rfl,
      advances_finish rfl rfl⟩,
    fun hout => exec_ldMemVx_of_out_of_bounds hout⟩

/-- Settles O38: the load of `loadRegs_get_of_le`, or the failing check before it. -/
theorem registerLoadReads : Obligations.RegisterLoadReads := fun x s =>
  ⟨fun hfits => ⟨_, exec_ldVxMem_of_fits hfits, loadRegs_get_of_le s.ram s.i.toNat s.v x, rfl, rfl,
      advances_finish rfl rfl⟩,
    fun hout => exec_ldVxMem_of_out_of_bounds hout⟩

end Sys2Proof.Machine
end

section
/-! PROOFS. The timer and the host (60_exceptions.md R271, R273, R280, R281, R283): what a tick leaves in the counters,
how many edges make one tick, and what the host's actions do to the key flags. -/

namespace Sys2Proof.Machine

/-! ### The countdown (R271) -/

/-- A tick halts no one. -/
theorem tick_halt (s : State) : s.tick.halt = s.halt := by
  obtain ⟨dt, st, hs⟩ := tick_writes_timers s
  rw [hs]

/-- Each tick of a running core takes one off both counters, and a counter at zero stays there. -/
theorem tick_iterate_toNat (k : Nat) {s : State} (hh : s.halt = none) :
    (State.tick^[k] s).dt.toNat = s.dt.toNat - k ∧ (State.tick^[k] s).st.toNat = s.st.toNat - k := by
  induction k generalizing s with
  | zero => exact ⟨rfl, rfl⟩
  | succ k ih =>
    obtain ⟨hdt, hst⟩ := ih ((tick_halt s).trans hh)
    rw [Function.iterate_succ_apply, hdt, hst, tick_running s hh]
    simp only [countDown_toNat]
    omega

/-! ### The divider (R273) -/

/-- The edge at the last count wraps the divider and ticks. -/
theorem clkEdge_of_last {s : State} (h : s.div = clkHz / tickHz - 1) : s.clkEdge = State.tick { s with div := 0 } :=
  if_pos h

/-- The edge at any other count does no more than count. -/
theorem clkEdge_of_not_last {s : State} (h : s.div ≠ clkHz / tickHz - 1) : s.clkEdge = { s with div := s.div + 1 } :=
  if_neg h

/-- With n edges before the last count, the edges up to it count and the next one wraps. -/
theorem clkEdge_iterate_to_wrap (n : Nat) {s : State} (h : s.div + n + 1 = clkHz / tickHz) :
    State.clkEdge^[n + 1] s = State.tick { s with div := 0 } := by
  induction n generalizing s with
  | zero => exact clkEdge_of_last (by omega)
  | succ n ih =>
    rw [Function.iterate_succ_apply, clkEdge_of_not_last (by omega), ih (by simp only; omega)]

/-! ### The key flags (R280, R281) -/

/-- A key flag read after a flag write (10_state.md R37). -/
theorem key_get_set (key : Vector Bool 16) (k j : Key) (b : Bool) :
    (key.set k b).get j = if j = k then b else key.get j := by
  simp only [Vector.get_eq_getElem, Vector.getElem_set, Fin.ext_iff, eq_comm]

/-! ### The obligations -/

/-- Settles O45: one tick by whether the core is halted, k ticks by induction on k. -/
theorem tickCountsDown : Obligations.TickCountsDown := by
  refine ⟨fun s => ⟨s.tick, rfl, tick_halted s, fun hh => ?_⟩, fun k s hh => tick_iterate_toNat k hh⟩
  rw [tick_running s hh]
  exact ⟨countDown_toNat s.dt, countDown_toNat s.st, rfl⟩

/-- Settles O47: a divider in range is some number of edges before its last count. -/
theorem dividerTicksOncePerPeriod : Obligations.DividerTicksOncePerPeriod := by
  intro s hdiv
  obtain ⟨n, hn⟩ := Nat.exists_eq_add_of_lt hdiv
  have hedges : clkHz / 60 - s.div = n + 1 := by
    change clkHz / tickHz - s.div = n + 1
    omega
  rw [hedges]
  exact clkEdge_iterate_to_wrap n hn.symm

/-- Settles O46: the two kinds of edge. -/
theorem clockEdgeDivides : Obligations.ClockEdgeDivides := fun _ =>
  ⟨fun hlast => congrArg Host.Outcome.next (clkEdge_of_last hlast),
    fun hne => congrArg Host.Outcome.next (clkEdge_of_not_last hne)⟩

/-- Settles O48: each action is one write of its port. -/
theorem hostActionsWriteTheirPorts : Obligations.HostActionsWriteTheirPorts := fun s k =>
  ⟨⟨_, rfl, rfl, fun j => key_get_set s.key k j true, rfl⟩, ⟨_, rfl, fun j => key_get_set s.key k j false, rfl⟩, rfl⟩

end Sys2Proof.Machine
end

section
/-! PROOFS. Errors and progress (60_exceptions.md R250 to R257, 10_state.md R29): which instruction halts the core and
by which error, and that with the stack in shape every action but a refused reset has a next state. -/

namespace Sys2Proof.Machine

/-! ### Outcomes that halt the core only under a condition -/

/-- If the outcome is a next state, the core is not halted in it. -/
def LeavesRunning (o : Host.Outcome State Fault Refusal) : Prop := ∀ t, o = .next t → t.halt = none

theorem LeavesRunning.of_next {o : Host.Outcome State Fault Refusal} {u : State} (ho : o = .next u)
    (hu : u.halt = none) : LeavesRunning o := by
  intro t ht
  cases ho.symm.trans ht
  exact hu

theorem LeavesRunning.of_complete {o : Host.Outcome State Fault Refusal} {e : Effect} {u : State}
    (ho : o = complete e u) (hu : u.halt = none) : LeavesRunning o := by
  intro t ht
  obtain ⟨stack, sp, pc, rfl⟩ := complete_next_finish (ho.symm.trans ht)
  exact hu

section
variable {o : Host.Outcome State Fault Refusal} {s t : State} {c : Prop} {k : ErrorKind} {info : Word}

/-- An outcome that is an error under a condition, and otherwise leaves the core running, halts it only under that
condition and by that error. -/
theorem halts_only_if {k' : ErrorKind} {info' : Word} (hraise : c → o = .next (s.halted k' info'))
    (hrun : ¬ c → LeavesRunning o) (h : o = .next t) (ht : t.halt = some (k, info)) : c ∧ k = k' ∧ info = info' := by
  by_cases hc : c
  · cases (hraise hc).symm.trans h
    cases ht
    exact ⟨hc, rfl, rfl⟩
  · cases (hrun hc t h).symm.trans ht

/-- The same for the bounds check of an access to RAM from `I` on, whose information word fits in 16 bits (R251). -/
theorem halts_only_out_of_bounds
    (hraise : c → o = .next (s.halted .outOfBoundsAccess (BitVec.ofNat 16 (max s.i.toNat ramSize))))
    (hrun : ¬ c → LeavesRunning o) (h : o = .next t) (ht : t.halt = some (k, info)) :
    c ∧ k = .outOfBoundsAccess ∧ info.toNat = max s.i.toNat 0x1000 := by
  obtain ⟨hc, hk, rfl⟩ := halts_only_if hraise hrun h ht
  have hi := s.i.isLt
  exact ⟨hc, hk, Nat.mod_eq_of_lt (by simp only [ramSize]; omega)⟩

end

/-! ### The instructions that halt the core (R250, R257) -/

/-- A value of at most 15 is a key's number (43_keypad.md R200). -/
theorem exists_key {b : Byte} (h : ¬ 15 < b.toNat) : ∃ k : Key, b.toNat = k.val := ⟨⟨b.toNat, by omega⟩, rfl⟩

section
variable {s t : State} {x y : Reg} {n : Nibble} {k : ErrorKind} {info : Word} (hh : s.halt = none)
  (ht : t.halt = some (k, info))
include hh ht

theorem execRet_halts (h : exec .ret s = .next t) : s.sp = 0 ∧ k = .stackUnderflow ∧ info = s.pc :=
  halts_only_if execRet_of_empty (fun hsp => .of_complete (if_neg hsp) hh) h ht

theorem execCall_halts {nnn : Addr12} (h : exec (.call nnn) s = .next t) :
    s.sp = s.cfg.stackDepth ∧ k = .stackOverflow ∧ info = s.pc :=
  halts_only_if (execCall_of_full nnn) (fun hsp => .of_complete (if_neg hsp) hh) h ht

/-- Both skips on a key's level: a value above 15 is no key. -/
theorem execSkip_halts {i : Instr} (hi : i = .skp x ∨ i = .sknp x) (h : exec i s = .next t) :
    15 < (s.getV x).toNat ∧ k = .outOfBoundsAccess ∧ info = zext16 (s.getV x) := by
  obtain rfl | rfl := hi
  · exact halts_only_if exec_skp_of_no_key
      (fun hle => .of_complete (exec_skp_of_key (exists_key hle).choose_spec) hh) h ht
  · exact halts_only_if exec_sknp_of_no_key
      (fun hle => .of_complete (exec_sknp_of_key (exists_key hle).choose_spec) hh) h ht

theorem execDrw_halts (h : exec (.drw x y n) s = .next t) :
    (0 < n.toNat ∧ 0x0FFF < s.i.toNat + n.toNat - 1) ∧ k = .outOfBoundsAccess ∧ info.toNat = max s.i.toNat 0x1000 := by
  refine halts_only_out_of_bounds (fun hc => exec_drw_of_out_of_bounds hc.1 hc.2 x y) (fun hc => ?_) h ht
  have hfits : n = 0 ∨ s.i.toNat + n.toNat - 1 ≤ 0x0FFF :=
    (Nat.eq_zero_or_pos n.toNat).imp BitVec.eq_of_toNat_eq fun hn => Nat.le_of_not_lt fun hout => hc ⟨hn, hout⟩
  exact .of_next (exec_drw_of_fits hfits x y) hh

theorem execLdBVx_halts (h : exec (.ldBVx x) s = .next t) :
    0x0FFF < s.i.toNat + 2 ∧ k = .outOfBoundsAccess ∧ info.toNat = max s.i.toNat 0x1000 :=
  halts_only_out_of_bounds exec_ldBVx_of_out_of_bounds
    (fun hc => .of_complete (exec_ldBVx_of_fits (Nat.le_of_not_lt hc)) hh) h ht

/-- The bulk store and the bulk load make the same check. -/
theorem execBulk_halts {i : Instr} (hi : i = .ldMemVx x ∨ i = .ldVxMem x) (h : exec i s = .next t) :
    0x0FFF < s.i.toNat + x.val ∧ k = .outOfBoundsAccess ∧ info.toNat = max s.i.toNat 0x1000 := by
  obtain rfl | rfl := hi
  · exact halts_only_out_of_bounds exec_ldMemVx_of_out_of_bounds
      (fun hc => .of_next (execLdMemVx_of_fits (Nat.le_of_not_lt hc)) hh) h ht
  · exact halts_only_out_of_bounds exec_ldVxMem_of_out_of_bounds
      (fun hc => .of_complete (exec_ldVxMem_of_fits (Nat.le_of_not_lt hc)) hh) h ht

end

/-! ### Outcomes that are a next state -/

/-- The outcome is a next state: no fault, no refusal. -/
def Answers (o : Host.Outcome State Fault Refusal) : Prop := ∃ t, o = .next t

/-- `SP` is at a slot in use, so there is a newest address (10_state.md R29). -/
theorem execRet_answers {s : State} (hs : s.stackOk) : Answers (exec .ret s) := by
  obtain ⟨hlen, hle⟩ := hs
  by_cases hsp : s.sp = 0
  · exact ⟨_, execRet_of_empty hsp⟩
  · exact ⟨_, execRet_of_top hsp (List.getElem?_eq_getElem (by omega))⟩

/-- A stack that is not full has a free slot (10_state.md R29). -/
theorem execCall_answers {s : State} (hs : s.stackOk) (nnn : Addr12) : Answers (exec (.call nnn) s) := by
  by_cases hfull : s.sp = s.cfg.stackDepth
  · exact ⟨_, execCall_of_full nnn hfull⟩
  · exact ⟨_, execCall_of_room hs (Nat.lt_of_le_of_ne hs.2 hfull)⟩

theorem execLdVxK_answers (x : Reg) (s : State) : Answers (exec (.ldVxK x) s) := by
  simp only [exec, execLdVxK]
  split
  · exact ⟨_, rfl⟩
  · split <;> exact ⟨_, rfl⟩

/-- Only a call or a return needs a slot of the stack; every other instruction completes or raises an error. -/
theorem exec_answers {s : State} (hs : s.stackOk) (i : Instr) : Answers (exec i s) := by
  cases i with
  | ret => exact execRet_answers hs
  | call nnn => exact execCall_answers hs nnn
  | seImm | sneImm | seReg | sneReg => exact ⟨_, skipIf_eq _ s⟩
  | skp | sknp =>
    simp only [exec, execSkp, execSknp]
    split
    · exact ⟨_, rfl⟩
    · exact ⟨_, skipIf_eq _ s⟩
  | drw | ldBVx | ldMemVx | ldVxMem =>
    simp only [exec, execDrw, execLdBVx, execLdMemVx, execLdVxMem]
    split <;> exact ⟨_, rfl⟩
  | ldVxK x => exact execLdVxK_answers x s
  | _ => exact ⟨_, rfl⟩

theorem unknownWord_answers (w : Word) (s : State) : Answers (unknownWord w s) := by
  unfold unknownWord
  split <;> exact ⟨_, rfl⟩

theorem engineStep_answers {s : State} (hs : s.stackOk) : Answers (engineStep s) := by
  obtain ⟨-, h⟩ | ⟨-, info, -, h⟩ | ⟨-, w, i, -, -, h⟩ | ⟨-, w, r, -, -, h⟩ := engineStep_cases s <;> rw [h]
  · exact ⟨_, rfl⟩
  · exact ⟨_, rfl⟩
  · exact exec_answers hs i
  · exact unknownWord_answers w s

/-- One action has a next state, or is a reset with a ROM that is too long (20_memory.md R64). -/
theorem act_answers {s : State} (hs : s.stackOk) (a : Action) :
    Answers (act a s) ∨
    ∃ rom launch, a = .reset rom launch ∧ maxRomLen < rom.length ∧ act a s = .refused .romTooLong := by
  cases a with
  | step => exact .inl (engineStep_answers hs)
  | reset rom launch =>
    by_cases hlen : rom.length ≤ maxRomLen
    · exact .inl ⟨_, if_pos hlen⟩
    · exact .inr ⟨rom, launch, rfl, Nat.lt_of_not_le hlen, if_neg hlen⟩
  | _ => exact .inl ⟨_, rfl⟩

/-! ### The obligations -/

/-- Settles O12: the instructions that can raise, one by one; any other leaves `HALT` (`Frame.halt`). -/
theorem errorsRaisedByInstructions : Obligations.ErrorsRaisedByInstructions := by
  intro i s t k info hh h ht
  cases i with
  | ret =>
    obtain ⟨hsp, hk, hinfo⟩ := execRet_halts hh ht h
    exact .inl ⟨rfl, hk, hinfo, hsp⟩
  | call nnn =>
    obtain ⟨hsp, hk, hinfo⟩ := execCall_halts hh ht h
    exact .inr (.inl ⟨nnn, rfl, hk, hinfo, hsp⟩)
  | skp x | sknp x =>
    obtain ⟨hkey, hk, rfl⟩ := execSkip_halts (x := x) hh ht (by simp) h
    exact .inr (.inr (.inl ⟨x, by simp, hk, zext16_toNat _, hkey⟩))
  | drw x y n =>
    obtain ⟨⟨hn, hout⟩, hk, hinfo⟩ := execDrw_halts hh ht h
    exact .inr (.inr (.inr ⟨hk, hinfo, .inl ⟨x, y, n, rfl, hn, hout⟩⟩))
  | ldBVx x =>
    obtain ⟨hout, hk, hinfo⟩ := execLdBVx_halts hh ht h
    exact .inr (.inr (.inr ⟨hk, hinfo, .inr (.inl ⟨x, rfl, hout⟩)⟩))
  | ldMemVx x | ldVxMem x =>
    obtain ⟨hout, hk, hinfo⟩ := execBulk_halts (x := x) hh ht (by simp) h
    exact .inr (.inr (.inr ⟨hk, hinfo, .inr (.inr ⟨x, by simp, hout⟩)⟩))
  | _ =>
    have hnone := ((exec_framed _ s t h).halt rfl).trans hh
    cases hnone.symm.trans ht

/-- Settles O53: a step is one action on a state with the same stack. -/
theorem invariantStepsAnswerNext : Obligations.InvariantStepsAnswerNext := by
  intro s hs
  rw [step_eq_act]
  refine (act_answers (s := s.popAgenda) hs.stack _).imp_right ?_
  rintro ⟨rom, launch, ha, hlen, hrefused⟩
  exact ⟨rom, launch, _, agenda_eq_cons ha (by simp), hlen, hrefused⟩

end Sys2Proof.Machine
end

section
/-! PROOFS. Reset and the end of a run (70_reset_and_hazards.md R290 to R292, R299): what RAM holds after a reset,
range by range, and that a jump to itself is a fixed point of the step. -/

namespace Sys2Proof.Machine

/-! ### RAM after a reset (R291, R292; 20_memory.md R63, R64) -/

/-- The ROM begins above the font, so it leaves every glyph as the font wrote it. -/
theorem read_bootRam_font (c : Config) (rom : List Byte) (launch : List Host.Cell) {j : Nat} (h : j < c.font.length) :
    (bootRam c rom launch).read j = c.font[j] := by
  have hlen : c.font.length = 80 := c.font_length
  have hbelow : j < progBase := by simp only [progBase]; omega
  have hfits : fontBase + c.font.length ≤ ramSize := by rw [hlen]; decide
  have hread := Memory.read_writeBytes_in _ fontBase c.font j h hfits (Memory.ofCells_wf launch)
  rw [fontBase, Nat.zero_add] at hread
  rw [bootRam, Memory.read_writeBytes_out _ _ _ _ (.inl hbelow)]
  exact hread

/-- The ROM is written last, so its bytes stand as given. -/
theorem read_bootRam_rom (c : Config) {rom : List Byte} (launch : List Host.Cell) (hrom : rom.length ≤ maxRomLen)
    {j : Nat} (h : j < rom.length) : (bootRam c rom launch).read (progBase + j) = rom[j] := by
  have hfont : fontBase + c.font.length ≤ ramSize := by rw [c.font_length]; decide
  have hfits : progBase + rom.length ≤ ramSize := by simp only [maxRomLen, progBase, ramSize] at hrom ⊢; omega
  exact Memory.read_writeBytes_in _ _ _ j h hfits (Memory.writeBytes_wf _ _ _ hfont (Memory.ofCells_wf launch))

/-- Neither font nor ROM writes a byte outside its own range. -/
theorem read_bootRam_elsewhere (c : Config) (rom : List Byte) (launch : List Host.Cell) {a : Nat}
    (hfont : fontLen ≤ a) (hrom : a < progBase ∨ progBase + rom.length ≤ a) :
    (bootRam c rom launch).read a = (Memory.ofCells launch).read a := by
  have habove : fontBase + c.font.length ≤ a := by simp only [c.font_length, fontBase]; omega
  rw [bootRam, Memory.read_writeBytes_out _ _ _ _ hrom, Memory.read_writeBytes_out _ _ _ _ (.inr habove)]

/-- Memory that lists nothing reads as the default font from 0x000 on. -/
theorem read_nil_font {j : Nat} (h : j < defaultFont.length) : Memory.read [] j = defaultFont[j] :=
  List.getD_eq_getElem _ _ h

/-! ### The end of a run (R299) -/

/-- A run has ended when the core is Running, not halted, at a jump to its own address. -/
theorem ended_iff (s : State) :
    s.ended = true ↔
      s.halt = none ∧ s.mode = .running ∧ ∃ nnn, s.fetch = .ok (encode (.jp nnn)) ∧ s.pc = imm12 nnn := by
  have hjump (nnn : Addr12) (hpc : s.pc = imm12 nnn) : s.pc.setWidth 12 = nnn := by simp [hpc, imm12]
  unfold State.ended
  cases hf : s.fetch with
  | error info => simp
  | ok w =>
    simp only [Bool.and_eq_true, Option.isNone_iff_eq_none, beq_iff_eq, and_assoc, Except.ok.injEq]
    refine and_congr_right fun _ => and_congr_right fun _ => ⟨fun h => ⟨_, h⟩, ?_⟩
    rintro ⟨nnn, hw, hpc⟩
    rw [hjump nnn hpc]
    exact ⟨hw, hpc⟩

/-- The step of an ended run reports the jump and leaves `PC` where it is (40_control_flow.md R126). -/
theorem step_of_ended {s : State} (h : s.ended = true) (hagenda : s.agenda = []) :
    step s = .next (s.finish s.pc (.jump s.pc)) := by
  obtain ⟨hh, -, nnn, hfetch, hpc⟩ := (ended_iff s).mp h
  rw [step_of_agenda_nil hagenda, engineStep_of_decode hh hfetch (decodeOfEncode (.jp nnn) rfl), hpc]
  exact complete_jump s (imm12 nnn)

/-! ### The obligations -/

/-- Settles O49: the state is `State.fresh` on the RAM of `bootRam`, which is read by its three ranges. -/
theorem resetLoadsFontAndRom : Obligations.ResetLoadsFontAndRom := by
  refine fun s rom launch => ⟨fun hlong => if_neg (Nat.not_le_of_lt hlong), fun hrom => ⟨_, if_pos hrom, ?_⟩⟩
  exact ⟨fun r => Vector.getElem_replicate r.isLt, rfl, rfl, rfl, rfl, rfl, rfl,
    Framebuffer.clear_shaped s.cfg, fun row _ col _ => Framebuffer.cell_clear s.cfg row col, rfl,
    fun k => Vector.getElem_replicate k.isLt, rfl, rfl, rfl, rfl, rfl, rfl, rfl, rfl,
    fun _ h => read_bootRam_font s.cfg rom launch h, fun _ h => read_bootRam_rom s.cfg launch hrom h,
    fun _ hfont hout => read_bootRam_elsewhere s.cfg rom launch hfont hout⟩

/-- Settles O60: the step reports the jump, and the report is no part of what an ended run is. -/
theorem endedRunStaysEnded : Obligations.EndedRunStaysEnded := fun _ h hagenda =>
  ⟨_, step_of_ended h hagenda, rfl, h⟩

/-- Settles O50: the reset state is `State.fresh` on the default parameters, with memory that lists nothing. -/
theorem resetStateValues : Obligations.ResetStateValues :=
  ⟨fun r => Vector.getElem_replicate r.isLt, rfl, rfl, rfl, rfl, rfl, rfl,
    Framebuffer.clear_shaped defaultConfig, fun row _ col _ => Framebuffer.cell_clear defaultConfig row col, rfl,
    fun k => Vector.getElem_replicate k.isLt, rfl, rfl, rfl, rfl, rfl, rfl, rfl, rfl, rfl, rfl, rfl, rfl,
    fun _ h => read_nil_font h⟩

end Sys2Proof.Machine
end
